-- ==== Sys2Proof/Word.lean ====
section
/-! DEFINITION. Word.lean: the block's plain values: bit sequences, request tags, the opaque values it only passes
through, a pair of control-line states, and the record of a deferred request. -/

namespace Sys2Proof

/-- A bit sequence, element 0 first: appended first, transmitted first (00_scope.md section 5, 20_memory.md R40). -/
abbrev Bits := List Bool

/-- A request tag `id` (30_encoding.md R62). Its width W_ID is open (00_scope.md R9): a natural number here, held to
W_ID bits by `Instr.wellFormed` (log 8). -/
abbrev Tag := Nat

/-- An endpoint identifier: opaque, passed through and never inspected (42_session.md R105). The token only tells two
of them apart in written-out states (log 8). -/
structure Endpoint where
  token : Nat
  deriving DecidableEq, Repr

/-- A manufacturer description, as opaque as an endpoint identifier (42_session.md R105; log 8). -/
structure Maker where
  token : Nat
  deriving DecidableEq, Repr

/-- The transport's error value, opaque (30_encoding.md R61; log 8). -/
structure TransportError where
  token : Nat
  deriving DecidableEq, Repr

/-- One record of an enumeration's result: endpoint identifier and manufacturer description (42_session.md R119). -/
structure PortRecord where
  endpoint : Endpoint
  maker : Maker
  deriving DecidableEq, Repr

/-- The two control lines (00_scope.md R1). -/
inductive ControlLine where
  | rts
  | dtr
  deriving DecidableEq, Repr, Inhabited

/-- A pair `(rts, dtr)` of boolean control-line states, 1 for asserted (30_encoding.md R58). -/
structure LineState where
  rts : Bool
  dtr : Bool
  deriving DecidableEq, Repr

/-- A deferred transmit request `(id, bits, bko)` (10_state.md R23). -/
structure Waiter where
  id : Tag
  bits : Bits
  bko : Nat
  deriving DecidableEq, Repr

end Sys2Proof
end

