-- ==== Sys2Proof/Config.lean ====
section
/-! DEFINITION. Config.lean: the constants the spec fixes (00_scope.md R7), the parameters it leaves open (R8, R9) as
constants without a body, of which nothing can be proved but what their type says (log 7), and the one free value
(93_implementation_defined.md U6, log 6). -/

namespace Sys2Proof

/-! Fixed by the source (00_scope.md R7). -/

/-- FRAME_BITS. -/
def Config.frameBits : Nat := 40
/-- HEADER_BITS. -/
def Config.headerBits : Nat := 16
/-- HOUSE_BITS. -/
def Config.houseBits : Nat := 5
/-- MODULE_BITS. -/
def Config.moduleBits : Nat := 11
/-- FOOTER_BITS. -/
def Config.footerBits : Nat := 8
/-- N_HOUSES. -/
def Config.nHouses : Nat := 16
/-- N_MODULES. -/
def Config.nModules : Nat := 16
/-- OFF_POS: the module position forced to 1 for off. -/
def Config.offPos : Nat := 10
/-- FIFO_DEPTH (00_scope.md R9, the spec's decision D6). -/
def Config.fifoDepth : Nat := 40

/-! Open parameters (00_scope.md R8, R9; 93_implementation_defined.md U17). -/

/-- `HEADER[i]`, for i below 16. -/
opaque Config.headerBit : Nat → Bool
/-- `FOOTER[i]`, for i below 8. -/
opaque Config.footerBit : Nat → Bool
/-- `HOUSE_TABLE[h][i]` for h in 1 to 15: the source gives entry 0 only. -/
opaque Config.houseBit : Nat → Nat → Bool
/-- `MODULE_TABLE[m][i]` for m in 1 to 15: the source gives entry 0 only. -/
opaque Config.moduleBit : Nat → Nat → Bool
/-- ONE_LINE: the line asserted for a bit of value 1 (30_encoding.md R58). -/
opaque Config.oneLine : ControlLine
/-- BIT_TICKS less one: BIT_TICKS is any integer of at least 1. -/
opaque Config.bitTicksLessOne : Nat
/-- MAX_WAITERS: a bound, or none for unbounded (the spec's decision D15). -/
opaque Config.maxWaiters : Option Nat
/-- N_SESSIONS less one: N_SESSIONS is at least 1. -/
opaque Config.sessionsLessOne : Nat
/-- W_ID: the width of a request tag. -/
opaque Config.tagWidth : Nat
/-- LINK_BAUD less one: LINK_BAUD is a positive integer; no rule depends on it (42_session.md R101). -/
opaque Config.linkBaudLessOne : Nat

/-- BIT_TICKS: ticks in one bit-interval. -/
def Config.bitTicks : Nat := Config.bitTicksLessOne + 1
/-- BACKOFF_TICKS. -/
def Config.backoffTicks : Nat := 1000 * Config.bitTicks
/-- WARMUP_TICKS. -/
def Config.warmupTicks : Nat := 500 * Config.bitTicks
/-- N_SESSIONS. -/
def Config.nSessions : Nat := Config.sessionsLessOne + 1
/-- LINK_BAUD. -/
def Config.linkBaud : Nat := Config.linkBaudLessOne + 1

/-! The free value. -/

/-- What a FIFO cell that holds no defined value reads as, by the number of the step that reads it and the cell's
address: any value (93_implementation_defined.md U6; log 6). -/
opaque Config.undefinedCell : Nat → Nat → Bool

end Sys2Proof
end

