-- ==== Sys2Proof/Syntax.lean ====
section
/-! DEFINITION. Syntax.lean: the operations of the block, one constructor per row of opcode_table.json
(30_encoding.md R66), and the port presentations they are decoded from (R60, R61). -/

namespace Sys2Proof

/-- An operation of the block with its operands (30_encoding.md R66). -/
inductive Instr where
  /-- CREATE (42_session.md R106). -/
  | create
  /-- SEND(id, h, m, o) (42_session.md R107). -/
  | send (id : Tag) (h m : Int) (o : Bool)
  /-- OPEN(id, ep) (42_session.md R113). -/
  | openSession (id : Tag) (ep : Endpoint)
  /-- CLOSE(id) (42_session.md R110). -/
  | closeSession (id : Tag)
  /-- LIST(id) (42_session.md R119). -/
  | listPorts (id : Tag)
  /-- HOUSECODE(h) (40_encoder.md R71). -/
  | housecode (h : Int)
  /-- MODULECODE(m) (40_encoder.md R72). -/
  | modulecode (m : Int)
  /-- ENCODE(h, m, o) (40_encoder.md R75). -/
  | encodeCommand (h m : Int) (o : Bool)
  /-- FRAME.ON: the shape of ENCODE(h, m, true) (40_encoder.md R75). -/
  | frameOn (h m : Int)
  /-- FRAME.OFF: the shape of ENCODE(h, m, false) (40_encoder.md R75). -/
  | frameOff (h m : Int)
  /-- XMIT: transmit(id, s) (41_engine.md R82). -/
  | xmit (id : Tag) (s : Bits)
  /-- SYM.ONE (30_encoding.md R58). -/
  | symOne
  /-- SYM.ZERO (30_encoding.md R58). -/
  | symZero
  /-- SYM.SYNC (30_encoding.md R58). -/
  | symSync
  /-- ACK.OK (41_engine.md R85). -/
  | ackOk
  /-- ACK.FAIL(e) (41_engine.md R89). -/
  | ackFail (e : TransportError)
  /-- TICK (41_engine.md R86). -/
  | tick
  /-- EXPIRE.BIT (41_engine.md R87). -/
  | expireBit
  /-- EXPIRE.SYNC (41_engine.md R88). -/
  | expireSync
  /-- RETRY(w) (41_engine.md R90). -/
  | retry (w : Waiter)
  /-- TOPEN.OK (42_session.md R114). -/
  | topenOk
  /-- TOPEN.FAIL(e) (42_session.md R115). -/
  | topenFail (e : TransportError)
  /-- TCLOSE.OK (42_session.md R111). -/
  | tcloseOk
  /-- TCLOSE.FAIL(e) (42_session.md R112). -/
  | tcloseFail (e : TransportError)
  /-- WARMDONE (42_session.md R116). -/
  | warmdone
  /-- TLIST.OK(id, l) (42_session.md R120). -/
  | tlistOk (id : Tag) (l : List PortRecord)
  /-- TLIST.FAIL(id, e) (42_session.md R120). -/
  | tlistFail (id : Tag) (e : TransportError)
  deriving DecidableEq, Repr

/-- What stands on one port of the block when a step is taken: the port's word in its format (30_encoding.md R53) and
its side operands. The guards of the internal steps and the operands of the encoder functions are no input ports of the
spec; their presentations say which of them the next step is (log 9). -/
inductive Presentation where
  /-- Pin `rst`, format PIN1. -/
  | rst (v : Bool)
  /-- Pin `tick`, format PIN1. -/
  | tick (v : Bool)
  /-- The command port: `cmd_valid`, `cmd` in CW19, `cmd_id`, `cmd_ep` (30_encoding.md R60). -/
  | cmd (valid : Bool) (w : BitVec 19) (id : Tag) (ep : Endpoint)
  /-- The line-set answer port, ANS2 `(valid, fail)` and `err` (30_encoding.md R61). -/
  | lineAnswer (a : BitVec 2) (err : TransportError)
  /-- The open answer port. -/
  | openAnswer (a : BitVec 2) (err : TransportError)
  /-- The close answer port. -/
  | closeAnswer (a : BitVec 2) (err : TransportError)
  /-- The enumerate answer port, with the tag and the result list. -/
  | listAnswer (a : BitVec 2) (id : Tag) (l : List PortRecord) (err : TransportError)
  /-- An engine expiry, its guard pattern `(phase[1:0], sub, tmr=0)` (opcode_table.json). -/
  | engineGuard (g : BitVec 4)
  /-- A retry, its guard pattern and the waiter chosen (opcode_table.json). -/
  | retryGuard (g : BitVec 1) (w : Waiter)
  /-- A warm-up completion, its guard pattern `(sop[1:0], wtmr=0)` (opcode_table.json). -/
  | sessionGuard (g : BitVec 3)
  /-- HOUSECODE, its operand in `cmd[15:8]` of a SEND word (40_encoder.md R71). -/
  | houseFunction (w : BitVec 19)
  /-- MODULECODE, its operand in `cmd[7:0]` of a SEND word (40_encoder.md R72). -/
  | moduleFunction (w : BitVec 19)
  /-- ENCODE, its operands those of a SEND word (40_encoder.md R75). -/
  | encodeFunction (w : BitVec 19)
  /-- A result shape of ENCODE, on or off by bit 16 of a SEND word (40_encoder.md R75). -/
  | frameShape (w : BitVec 19)
  /-- A call of `transmit(id, s)` (41_engine.md R82). -/
  | transmitCall (id : Tag) (s : Bits)
  /-- A line symbol, format SYM2 `(rts, dtr)` (30_encoding.md R58). -/
  | symbol (p : BitVec 2)
  deriving DecidableEq, Repr

/-- Why a presentation selects no operation. -/
inductive Rejection where
  /-- A pin at 0, `cmd_valid = 0`, or an answer with `valid = 0`: nothing is presented (30_encoding.md R60, R61). -/
  | nothingPresented
  /-- The symbol `(0, 0)`, unused (30_encoding.md R65). -/
  | unusedSymbol
  /-- A guard pattern of no internal step (30_encoding.md R66). -/
  | noSuchGuard
  /-- An encoder function given a word that is no SEND (log 9). -/
  | notASendWord
  deriving DecidableEq, Repr

end Sys2Proof
end

