-- ==== Sys2Proof/WellFormed.lean ====
section
/-! DEFINITION. WellFormed.lean: what the ports can carry: index fields of W_IDX = 8 bits in two's complement
(30_encoding.md R60), tags of W_ID bits (R60), sequences of 1 to 40 bits (41_engine.md R100), a waiter's ranges
(10_state.md R23). -/

namespace Sys2Proof

/-- An index that an 8-bit two's-complement field can carry (30_encoding.md R60). -/
def indexFits (n : Int) : Bool := decide (-128 ≤ n) && decide (n ≤ 127)

/-- A tag of W_ID bits (30_encoding.md R60). -/
def tagFits (id : Tag) : Bool := decide (id < 2 ^ Config.tagWidth)

/-- A length `transmit` has a meaning for (41_engine.md R100). -/
def lengthFits (s : Bits) : Bool := decide (1 ≤ s.length) && decide (s.length ≤ Config.fifoDepth)

/-- A waiter within its ranges (10_state.md R23, R32 (f)). -/
def waiterFits (w : Waiter) : Bool :=
  lengthFits w.bits && decide (w.bko ≤ Config.backoffTicks) && tagFits w.id

/-- The operation's operands are ones its port can carry. -/
def Instr.wellFormed : Instr → Bool
  | .create => true
  | .send id h m _ => indexFits h && indexFits m && tagFits id
  | .openSession id _ => tagFits id
  | .closeSession id => tagFits id
  | .listPorts id => tagFits id
  | .housecode h => indexFits h
  | .modulecode m => indexFits m
  | .encodeCommand h m _ => indexFits h && indexFits m
  | .frameOn h m => indexFits h && indexFits m
  | .frameOff h m => indexFits h && indexFits m
  | .xmit id s => lengthFits s && tagFits id
  | .symOne => true
  | .symZero => true
  | .symSync => true
  | .ackOk => true
  | .ackFail _ => true
  | .tick => true
  | .expireBit => true
  | .expireSync => true
  | .retry w => waiterFits w
  | .topenOk => true
  | .topenFail _ => true
  | .tcloseOk => true
  | .tcloseFail _ => true
  | .warmdone => true
  | .tlistOk id _ => tagFits id
  | .tlistFail id _ => tagFits id

end Sys2Proof
end

