-- ==== Sys2Proof/Decode.lean ====
section
/-! DEFINITION. Decode.lean: the formats of 30_encoding.md (CW19, ANS2, SYM2, `pack`), the decoder from a port
presentation to an operation, total, rejecting by name, and after it the encoder written from the same rules. -/

namespace Sys2Proof

/-! ## Fields and formats -/

/-- `cmd[18:17]`, the operation field (30_encoding.md R60). -/
def cmdOp (w : BitVec 19) : BitVec 2 := w.extractLsb' 17 2

/-- `cmd[16]`, 1 for on (30_encoding.md R60). -/
def cmdOn (w : BitVec 19) : Bool := w.getLsbD 16

/-- `sint(cmd[15:8])`, the house index (30_encoding.md R60). -/
def cmdHouse (w : BitVec 19) : Int := (w.extractLsb' 8 8).toInt

/-- `sint(cmd[7:0])`, the module index (30_encoding.md R60). -/
def cmdModule (w : BitVec 19) : Int := (w.extractLsb' 0 8).toInt

/-- The CW19 word with these fields (30_encoding.md R60, R67). -/
def commandWord (op : BitVec 2) (o : Bool) (h m : Int) : BitVec 19 :=
  op ++ (BitVec.ofBool o ++ (BitVec.ofInt 8 h ++ BitVec.ofInt 8 m))

/-- The command word of `SEND h m o` (30_encoding.md R67). -/
def sendWord (h m : Int) (o : Bool) : BitVec 19 := commandWord 0 o h m

/-- `sym(b)`: the ONE_LINE line carries `b` and the other its complement (30_encoding.md R58). -/
def sym (b : Bool) : LineState :=
  match Config.oneLine with
  | .rts => ⟨b, !b⟩
  | .dtr => ⟨!b, b⟩

/-- SYNC: both lines asserted (30_encoding.md R58). -/
def syncSymbol : LineState := ⟨true, true⟩

/-- `set_sym[1:0] = (rts, dtr)` (30_encoding.md R61). -/
def LineState.code (l : LineState) : BitVec 2 := BitVec.ofBool l.rts ++ BitVec.ofBool l.dtr

/-- `pack(s)` as a number: index 0 is the most significant bit (00_scope.md section 5, 20_memory.md R41). -/
def pack (s : Bits) : Nat := s.foldl (fun acc b => 2 * acc + b.toNat) 0

/-- The sequence of `n` bits whose packed form is `w`. -/
def unpack (n w : Nat) : Bits := (List.range n).map fun i => w.testBit (n - 1 - i)

/-- The four answer formats share ANS2, `(valid, fail)`: success 10, failure 11, and no answer with valid = 0
(30_encoding.md R61). -/
def decodeAnswer (a : BitVec 2) (ok failed : Instr) : Except Rejection Instr :=
  if a = 2#2 then .ok ok else if a = 3#2 then .ok failed else .error .nothingPresented

/-- CW19 by its operation field; every value of the field is assigned (30_encoding.md R60, R65). -/
def decodeCommand (w : BitVec 19) (id : Tag) (ep : Endpoint) : Instr :=
  if cmdOp w = 0#2 then .send id (cmdHouse w) (cmdModule w) (cmdOn w)
  else if cmdOp w = 1#2 then .openSession id ep
  else if cmdOp w = 2#2 then .closeSession id
  else .listPorts id

/-- An encoder function reads its operands from a SEND word (40_encoder.md R71, R72, R75; log 9). -/
def fromSendWord (w : BitVec 19) (i : Instr) : Except Rejection Instr :=
  if cmdOp w = 0#2 then .ok i else .error .notASendWord

/-- SYM2: SYNC, the symbol of a 1, the symbol of a 0; `(0, 0)` is unused (30_encoding.md R58, R65). -/
def decodeSymbol (p : BitVec 2) : Except Rejection Instr :=
  if p = 0#2 then .error .unusedSymbol
  else if p = syncSymbol.code then .ok .symSync
  else if p = (sym true).code then .ok .symOne
  else .ok .symZero

/-! ## The decoder -/

/-- The operation a presentation selects (30_encoding.md R66, opcode_table.json). -/
def decode : Presentation → Except Rejection Instr
  | .rst v => if v then .ok .create else .error .nothingPresented
  | .tick v => if v then .ok .tick else .error .nothingPresented
  | .cmd valid w id ep => if valid then .ok (decodeCommand w id ep) else .error .nothingPresented
  | .lineAnswer a err => decodeAnswer a .ackOk (.ackFail err)
  | .openAnswer a err => decodeAnswer a .topenOk (.topenFail err)
  | .closeAnswer a err => decodeAnswer a .tcloseOk (.tcloseFail err)
  | .listAnswer a id l err => decodeAnswer a (.tlistOk id l) (.tlistFail id err)
  | .engineGuard g =>
    if g = 0b0111#4 then .ok .expireBit else if g = 0b1011#4 then .ok .expireSync else .error .noSuchGuard
  | .retryGuard g w => if g = 1#1 then .ok (.retry w) else .error .noSuchGuard
  | .sessionGuard g => if g = 0b111#3 then .ok .warmdone else .error .noSuchGuard
  | .houseFunction w => fromSendWord w (.housecode (cmdHouse w))
  | .moduleFunction w => fromSendWord w (.modulecode (cmdModule w))
  | .encodeFunction w => fromSendWord w (.encodeCommand (cmdHouse w) (cmdModule w) (cmdOn w))
  | .frameShape w =>
    fromSendWord w (if cmdOn w then .frameOn (cmdHouse w) (cmdModule w) else .frameOff (cmdHouse w) (cmdModule w))
  | .transmitCall id s => .ok (.xmit id s)
  | .symbol p => decodeSymbol p

/-! ## The encoder -/

/-- A side operand that the operation does not carry: any value will do, since no decoding reads it. -/
def noEndpoint : Endpoint := ⟨0⟩
/-- As `noEndpoint`, for an error value. -/
def noError : TransportError := ⟨0⟩

/-- The presentation of an operation: ignored bits 0 (30_encoding.md R60, R61, R65, opcode_table.json). -/
def encode : Instr → Presentation
  | .create => .rst true
  | .send id h m o => .cmd true (sendWord h m o) id noEndpoint
  | .openSession id ep => .cmd true (commandWord 1 false 0 0) id ep
  | .closeSession id => .cmd true (commandWord 2 false 0 0) id noEndpoint
  | .listPorts id => .cmd true (commandWord 3 false 0 0) id noEndpoint
  | .housecode h => .houseFunction (sendWord h 0 false)
  | .modulecode m => .moduleFunction (sendWord 0 m false)
  | .encodeCommand h m o => .encodeFunction (sendWord h m o)
  | .frameOn h m => .frameShape (sendWord h m true)
  | .frameOff h m => .frameShape (sendWord h m false)
  | .xmit id s => .transmitCall id s
  | .symOne => .symbol (sym true).code
  | .symZero => .symbol (sym false).code
  | .symSync => .symbol syncSymbol.code
  | .ackOk => .lineAnswer 0b10#2 noError
  | .ackFail e => .lineAnswer 0b11#2 e
  | .tick => .tick true
  | .expireBit => .engineGuard 0b0111#4
  | .expireSync => .engineGuard 0b1011#4
  | .retry w => .retryGuard 1#1 w
  | .topenOk => .openAnswer 0b10#2 noError
  | .topenFail e => .openAnswer 0b11#2 e
  | .tcloseOk => .closeAnswer 0b10#2 noError
  | .tcloseFail e => .closeAnswer 0b11#2 e
  | .warmdone => .sessionGuard 0b111#3
  | .tlistOk id l => .listAnswer 0b10#2 id l noError
  | .tlistFail id e => .listAnswer 0b11#2 id [] e

/-! ## Table words -/

/-- The presentation a bare table word stands for. A row's bits do not name its port, so one port is fixed for each
width (log 10): whole bytes as the host counts them, or the exact width. The rows HOUSECODE and MODULECODE show a table
entry, not an operand: the two entries the spec gives, 01100 and eleven zeros (00_scope.md R7), stand for their index
0. -/
def tablePresentation (nbits w : Nat) : Option Presentation :=
  if nbits = 24 ∨ nbits = 19 then
    if w < 2 ^ 19 then some (.cmd true (BitVec.ofNat 19 w) 0 noEndpoint) else none
  else if nbits = 40 then
    if w < 2 ^ 40 then some (.transmitCall 0 (unpack 40 w)) else none
  else if nbits = 16 ∨ nbits = 11 then
    if w = 0 then some (.moduleFunction (sendWord 0 0 false)) else none
  else if nbits = 5 then
    if w = 12 then some (.houseFunction (sendWord 0 0 false)) else none
  else if nbits = 1 then some (.rst (w == 1))
  else if nbits = 2 then some (.lineAnswer (BitVec.ofNat 2 w) noError)
  else if nbits = 3 then some (.sessionGuard (BitVec.ofNat 3 w))
  else if nbits = 4 then some (.engineGuard (BitVec.ofNat 4 w))
  else if nbits = 8 then
    if w = 1 then some (.rst true)
    else if w = 2 ∨ w = 3 then some (.lineAnswer (BitVec.ofNat 2 w) noError)
    else if w = 12 then some (.houseFunction (sendWord 0 0 false))
    else if w < 16 then some (.engineGuard (BitVec.ofNat 4 w))
    else none
  else none

/-- What the decoder reads from a bare table word. -/
def decodeTableWord (nbits w : Nat) : Option Instr :=
  match tablePresentation nbits w with
  | none => none
  | some p =>
    match decode p with
    | .ok i => some i
    | .error _ => none

/-! ## The textual statements -/

/-- The house index of a letter, A to P (30_encoding.md R56, R67). -/
def houseOfLetter (c : Char) : Option Int :=
  if 'A' ≤ c ∧ c ≤ 'P' then some (c.toNat - 'A'.toNat : Nat) else none

/-- The module index of a module number, 1 to 16 (30_encoding.md R57, R67). -/
def moduleOfNumber (n : Nat) : Option Int :=
  if 1 ≤ n ∧ n ≤ 16 then some (n - 1 : Nat) else none

/-- `SEND <letter> <number> <ON|OFF>` as a command word (30_encoding.md R67). -/
def sendStatement (house : Char) (number : Nat) (on : Bool) : Option (BitVec 19) :=
  match houseOfLetter house, moduleOfNumber number with
  | some h, some m => some (sendWord h m on)
  | _, _ => none

end Sys2Proof
end

