-- ==== Sys2Proof/Machine/State.lean ====
section
/-! DEFINITION. Machine/State.lean: every piece of state the spec gives one session instance (10_state.md R13 to R28),
all instances together with the environment's choices (R30, R34), the reasons a step can stop, and the state after
reset (R33). -/

namespace Sys2Proof.Machine

/-- The states of the transmission state machine (10_state.md R14). -/
inductive Phase where
  | idle
  | sendingBit
  | synchronizing
  | failed
  deriving DecidableEq, Repr

/-- Which of its two suspension points the engine is at (10_state.md R15). -/
inductive Sub where
  | waitAck
  | hold
  deriving DecidableEq, Repr

/-- The held transport connection (10_state.md R24). -/
inductive Conn where
  | closed
  | openAt (ep : Endpoint)
  deriving DecidableEq, Repr

/-- What follows a transport close (10_state.md R25). -/
inductive CloseNext where
  | done
  | thenOpen (ep : Endpoint)
  deriving DecidableEq, Repr

/-- The session operation in progress (10_state.md R25). -/
inductive Sop where
  | idle
  | closeWait (id : Tag) (next : CloseNext)
  | openWait (id : Tag) (ep : Endpoint)
  | warmup (id : Tag)
  deriving DecidableEq, Repr

/-- The status of a completion: success or an error kind (30_encoding.md R63, 60_exceptions.md R123). -/
inductive Status where
  | ok
  | invalidHouse
  | invalidModule
  | transportOpenFailure
  | transportCloseFailure
  | transportSetLinesFailure
  | transportEnumerateFailure
  deriving DecidableEq, Repr

/-- `cpl_info`: the offending index, the transport's error, the endpoint list, or nothing (30_encoding.md R62,
60_exceptions.md R123). -/
inductive Info where
  | nothing
  | index (n : Int)
  | error (e : TransportError)
  | ports (l : List PortRecord)
  deriving DecidableEq, Repr

/-- An event emitted or an answer taken (10_state.md R28). -/
inductive Event where
  | lineSet (l : LineState)
  | complete (id : Tag) (status : Status) (info : Info)
  | topenReq (ep : Endpoint)
  | tcloseReq
  | tlistReq (id : Tag)
  | ackOk
  | ackFail (e : TransportError)
  | topenOk
  | topenFail (e : TransportError)
  | tcloseOk
  | tcloseFail (e : TransportError)
  | tlistOk (id : Tag) (l : List PortRecord)
  | tlistFail (id : Tag) (e : TransportError)
  deriving DecidableEq, Repr

/-- An entry of the event history, with the count of TICK steps before it (10_state.md R28). -/
structure HistEntry where
  tick : Nat
  event : Event
  deriving DecidableEq, Repr

/-- The FIFO's cells that hold a value: (address, bit), addresses strictly rising; an address not listed holds no value
(10_state.md R17, 20_memory.md R35; log 6). -/
abbrev Memory := List (Nat × Bool)

/-- One session instance: the elements of 10_state.md R13 and, after them, the tick count its history needs (R28). -/
structure Session where
  phase : Phase
  sub : Sub
  busy : Bool
  fmem : Memory
  wp : Nat
  rp : Nat
  tmr : Nat
  owner : Option Tag
  lineQ : Option LineState
  waiters : List Waiter
  conn : Conn
  sop : Sop
  wtmr : Nat
  lpend : List Tag
  hist : List HistEntry
  ticks : Nat
  deriving DecidableEq, Repr

/-- The state of a session after reset (10_state.md R33). -/
def Session.reset : Session where
  phase := .idle
  sub := .waitAck
  busy := false
  fmem := []
  wp := 0
  rp := 0
  tmr := 0
  owner := none
  lineQ := none
  waiters := []
  conn := .closed
  sop := .idle
  wtmr := 0
  lpend := []
  hist := []
  ticks := 0

/-- What a code-table function raises, with the offending index (40_encoder.md R71, R72). -/
inductive EncoderError where
  | invalidHouse (h : Int)
  | invalidModule (m : Int)
  deriving DecidableEq, Repr

/-- The value of an encoder function or line symbol evaluated on its own (log 3). -/
inductive Ret where
  | nothing
  | bits (s : Bits)
  | symbol (l : LineState)
  | raised (e : EncoderError)
  deriving DecidableEq, Repr

/-- One step the environment has chosen: the instance it belongs to and what stands on that instance's port
(10_state.md R30, log 2). -/
structure ScheduleEntry where
  inst : Nat
  what : Presentation
  deriving DecidableEq, Repr

/-- The machine: all session instances (10_state.md R34), and the model's own fields (log 1): the instance the present
step belongs to, the steps the environment has chosen, how many steps were taken, the last value returned. -/
structure State where
  sessions : List Session
  sel : Nat
  sched : List ScheduleEntry
  steps : Nat
  ret : Ret
  deriving DecidableEq, Repr

/-- Every instance after its `CREATE` (10_state.md R33, R34), nothing chosen yet. -/
def State.reset : State where
  sessions := List.replicate Config.nSessions Session.reset
  sel := 0
  sched := []
  steps := 0
  ret := .nothing

/-- A fault stops the machine. The spec's error kinds are no faults: they are reported and the machine goes on
(60_exceptions.md R123). -/
inductive Fault where
  /-- Raised by ACK.OK and EXPIRE.SYNC on an access to a FIFO cell that does not exist, 40 or above (20_memory.md R35,
  R42). Safe: no state reachable from reset makes such an access (10_state.md R32). -/
  | noSuchCell (a : Nat)
  deriving DecidableEq, Repr

/-- A refusal: the spec gives this step no meaning in this state, or it is no step of the block (log 4). All are safe:
the run stops and nothing is claimed of it. -/
inductive Refusal where
  /-- Raised by `exec` for an instruction without a meaning; none is left. Safe. -/
  | notModelled (mnemonic : String)
  /-- Raised by `step`: the environment has chosen no further step (log 2). Safe. -/
  | noStepChosen
  /-- Raised by `step`: the presentation selects no operation. Safe. -/
  | undecodable (r : Rejection)
  /-- Raised by every operation of a session: there is no instance of that number (10_state.md R34). Safe. -/
  | noSuchSession
  /-- Raised by SEND while an OPEN is in progress (42_session.md R109, 60_exceptions.md R130). Safe. -/
  | sendDuringOpen
  /-- Raised by OPEN and CLOSE while `sop` is not NONE (42_session.md R117, 60_exceptions.md R130). Safe. -/
  | sessionOperationInProgress
  /-- Raised by OPEN while `busy = 1` or a waiter exists (42_session.md R118, 60_exceptions.md R130). Safe. -/
  | openDuringTransmission
  /-- Raised by `transmit` of a sequence of length 0 or above 40 (41_engine.md R100, 60_exceptions.md R130). Safe. -/
  | sequenceLength
  /-- Raised by SEND and XMIT that would defer with the pool of a bounded MAX_WAITERS full: the step is not enabled
  (41_engine.md R84). Safe. -/
  | heldOffAtPort
  /-- Raised by ACK.OK and ACK.FAIL with no line-set outstanding (41_engine.md R85, R89). Safe. -/
  | noLineSetOutstanding
  /-- Raised by ACK.OK while no connection is open (42_session.md R103). Safe. -/
  | noConnectionForSuccess
  /-- Raised by TICK while an urgent step is enabled (41_engine.md R91). Safe. -/
  | urgentStepFirst
  /-- Raised by EXPIRE.BIT outside its guard (41_engine.md R87). Safe. -/
  | noBitExpiry
  /-- Raised by EXPIRE.SYNC outside its guard (41_engine.md R88). Safe. -/
  | noSyncExpiry
  /-- Raised by RETRY of a record that is no waiter with `bko = 0` (41_engine.md R90). Safe. -/
  | noSuchWaiterDue
  /-- Raised by TOPEN.OK and TOPEN.FAIL while `sop` is not OPEN_WAIT (42_session.md R104). Safe. -/
  | noOpenOutstanding
  /-- Raised by TCLOSE.OK and TCLOSE.FAIL while `sop` is not CLOSE_WAIT (42_session.md R104). Safe. -/
  | noCloseOutstanding
  /-- Raised by WARMDONE outside its guard (42_session.md R116). Safe. -/
  | noWarmupEnd
  /-- Raised by TLIST.OK and TLIST.FAIL of a tag that is not pending (42_session.md R120). Safe. -/
  | noListOutstanding
  deriving DecidableEq, Repr

end Sys2Proof.Machine
end

