-- ==== Sys2Proof/Machine/Tables.lean ====
section
/-! DEFINITION. Machine/Tables.lean: the four constant ROM spaces (20_memory.md R35, R37; 00_scope.md R7, R8). No
operation writes them. -/

namespace Sys2Proof.Machine

/-- HEADER, 16 bits (00_scope.md R8). -/
def headerRom : Bits := (List.range Config.headerBits).map Config.headerBit

/-- FOOTER, 8 bits (00_scope.md R8). -/
def footerRom : Bits := (List.range Config.footerBits).map Config.footerBit

/-- HOUSE_TABLE: entry 0 is house A's (00_scope.md R7), the others are open (R8). An index outside 0 to 15 never
reaches the ROM (20_memory.md R37), so the index has sixteen values. -/
def houseRom (h : Fin 16) : Bits :=
  if h.val = 0 then [false, true, true, false, false]
  else (List.range Config.houseBits).map (Config.houseBit h.val)

/-- MODULE_TABLE: entry 0 is module 01's (00_scope.md R7), the others are open (R8). -/
def moduleRom (m : Fin 16) : Bits :=
  if m.val = 0 then List.replicate Config.moduleBits false
  else (List.range Config.moduleBits).map (Config.moduleBit m.val)

end Sys2Proof.Machine
end

