-- ==== Sys2Proof/Machine/Operands.lean ====
section
/-! DEFINITION. Machine/Operands.lean: operand assembly of the Frame (30_encoding.md R54 to R57): the index tests, the
code-table functions, the on/off position and the concatenation (40_encoder.md R71 to R75). -/

namespace Sys2Proof.Machine

/-- A valid table index is one of 0 to 15; there is no wrap-around (30_encoding.md R56, R57, R64). -/
def validIndex (n : Int) : Option (Fin 16) :=
  if 0 ≤ n ∧ n ≤ 15 then some (Fin.ofNat 16 n.toNat) else none

/-- HOUSECODE(h) (40_encoder.md R71). -/
def houseCode (h : Int) : Except EncoderError Bits :=
  match validIndex h with
  | none => .error (.invalidHouse h)
  | some i => .ok (houseRom i)

/-- MODULECODE(m) (40_encoder.md R72). -/
def moduleCode (m : Int) : Except EncoderError Bits :=
  match validIndex m with
  | none => .error (.invalidModule m)
  | some i => .ok (moduleRom i)

/-- `setbit(s, p, v)` (00_scope.md section 5). -/
def setBit (s : Bits) (p : Nat) (v : Bool) : Bits := s.set p v

/-- The on/off position of a copy of a module code: forced to 1 for off, as looked up for on (40_encoder.md R74). -/
def polarity (c : Bits) (o : Bool) : Bits := if o then c else setBit c Config.offPos true

/-- `modpol(m, o)` (40_encoder.md R74). -/
def modpol (m : Int) (o : Bool) : Except EncoderError Bits :=
  match moduleCode m with
  | .error e => .error e
  | .ok c => .ok (polarity c o)

/-- A Frame from its four segments, in the order sent (20_memory.md R40, 30_encoding.md R54). -/
def assembleFrame (header house module footer : Bits) : Bits := header ++ house ++ module ++ footer

/-- ENCODE(h, m, o): the house is validated first (40_encoder.md R73, R75). -/
def encodeFrame (h m : Int) (o : Bool) : Except EncoderError Bits :=
  match houseCode h with
  | .error e => .error e
  | .ok hc =>
    match modpol m o with
    | .error e => .error e
    | .ok mc => .ok (assembleFrame headerRom hc mc footerRom)

/-- The kind under which a code-table failure is reported (30_encoding.md R63). -/
def EncoderError.status : EncoderError → Status
  | .invalidHouse _ => .invalidHouse
  | .invalidModule _ => .invalidModule

/-- Its `info`: the offending index (60_exceptions.md R123). -/
def EncoderError.info : EncoderError → Info
  | .invalidHouse h => .index h
  | .invalidModule m => .index m

/-- A code-table function's outcome as the value it returns when evaluated on its own (log 3). -/
def Ret.ofEncoder : Except EncoderError Bits → Ret
  | .ok s => .bits s
  | .error e => .raised e

end Sys2Proof.Machine
end

