-- ==== Sys2Proof/Machine/Ops.lean ====
section
/-! DEFINITION. Machine/Ops.lean: the named operations over the FIFO, the history, the engine and the instances:
MemRead and MemWrite, emit, raise, transmit with accept and defer, and the step of one instance (00_scope.md section 6,
41_engine.md R82 to R84, 60_exceptions.md R133). -/

namespace Sys2Proof.Machine

/-! ## The FIFO's cells -/

/-- The value a cell holds, none where it holds no value (10_state.md R17). -/
def Memory.read : Memory → Nat → Option Bool
  | [], _ => none
  | (k, v) :: rest, a => if a = k then some v else Memory.read rest a

/-- The cells after cell `a` is written with `b`. -/
def Memory.write : Memory → Nat → Bool → Memory
  | [], a, b => [(a, b)]
  | (k, v) :: rest, a, b =>
    if a < k then (a, b) :: (k, v) :: rest
    else if a = k then (a, b) :: rest
    else (k, v) :: Memory.write rest a b

/-- `MemWrite(FIFO, a, len(s), s)`: `s[0]` to cell `a` (00_scope.md section 6). -/
def Memory.writeFrom : Memory → Nat → Bits → Memory
  | m, _, [] => m
  | m, a, b :: bs => Memory.writeFrom (Memory.write m a b) (a + 1) bs

/-- The canonical form: addresses strictly rising, and every one a FIFO address (20_memory.md R35). An unlisted address
holds no value, so no entry equals what an unlisted address holds. -/
abbrev Memory.wf (m : Memory) : Prop :=
  (m.map Prod.fst).Pairwise (· < ·) ∧ ∀ a ∈ m.map Prod.fst, a < Config.fifoDepth

/-- The bit of cell `a`: its value where it is below `wp` and holds one, the free value of this step otherwise
(10_state.md R17, 93_implementation_defined.md U6; log 6). -/
def Session.cellValue (u : Nat → Bool) (x : Session) (a : Nat) : Bool :=
  if a < x.wp then (Memory.read x.fmem a).getD (u a) else u a

/-- Go on with the bit of cell `a`; an address at or above FIFO_DEPTH does not exist (20_memory.md R35, R42). -/
def Session.withCell (u : Nat → Bool) (x : Session) (a : Nat)
    (k : Bool → Host.Outcome Session Fault Refusal) : Host.Outcome Session Fault Refusal :=
  if a < Config.fifoDepth then k (x.cellValue u a) else .fault (.noSuchCell a)

/-- The abstract queue `[fmem[rp], ..., fmem[wp-1]]` (20_memory.md R36), of the cells that hold a value. -/
def Session.queue (x : Session) : Bits :=
  (List.range' x.rp (x.wp - x.rp)).filterMap (Memory.read x.fmem)

/-! ## Events -/

/-- Append an event emitted or an answer taken, with the tick count (10_state.md R28, 00_scope.md section 6). -/
def Session.record (x : Session) (e : Event) : Session :=
  { x with hist := x.hist ++ [⟨x.ticks, e⟩] }

/-- Success reported to the requester (00_scope.md R10). -/
def Session.succeed (x : Session) (id : Tag) (info : Info) : Session :=
  x.record (.complete id .ok info)

/-- Taking an error, the block's only exception: nothing is saved, no mode changes and control goes nowhere; beside the
state change of the raising rule it is one `Complete(id, kind, info)` to the requester (60_exceptions.md R133). There
is no return (R135). -/
def Session.raise (x : Session) (id : Tag) (kind : Status) (info : Info) : Session :=
  x.record (.complete id kind info)

/-- Report the end of the transmission in flight to its owner; with no owner there is no requester to report to
(10_state.md R21; log 11). -/
def Session.reportOwner (x : Session) (owner : Option Tag) (status : Status) (info : Info) : Session :=
  match owner with
  | none => x
  | some id => x.record (.complete id status info)

/-! ## The engine -/

/-- Accept, of the sequence `b :: bs` (41_engine.md R83). -/
def Session.accept (x : Session) (id : Tag) (b : Bool) (bs : Bits) : Session :=
  Session.record
    { x with
      busy := true
      owner := some id
      fmem := Memory.writeFrom x.fmem 0 (b :: bs)
      wp := (b :: bs).length
      rp := 0
      phase := .sendingBit
      sub := .waitAck
      tmr := 0 }
    (.lineSet (sym b))

/-- Defer (41_engine.md R84). -/
def Session.defer (x : Session) (id : Tag) (s : Bits) : Session :=
  { x with waiters := x.waiters ++ [⟨id, s, Config.backoffTicks⟩] }

/-- `transmit(id, s)`: accept if not busy, else defer (41_engine.md R82); a length of 0 or above 40 has no meaning
(R100). -/
def Session.transmit (x : Session) (id : Tag) (s : Bits) : Host.Outcome Session Fault Refusal :=
  match s with
  | [] => .refused .sequenceLength
  | b :: bs =>
    if Config.fifoDepth < (b :: bs).length then .refused .sequenceLength
    else if x.busy then .next (x.defer id (b :: bs))
    else .next (x.accept id b bs)

/-- What both terminal paths of a transmission do to the engine: the flag cleared, the FIFO emptied, no owner
(41_engine.md R88, R89). -/
def Session.release (x : Session) (p : Phase) : Session :=
  { x with busy := false, phase := p, sub := .waitAck, rp := 0, wp := 0, owner := none }

/-! ## Instances -/

/-- The instance the present step belongs to. -/
def State.cur (s : State) : Option Session := s.sessions[s.sel]?

/-- The state with that instance replaced: a step of one instance writes only that instance's state (10_state.md R34). -/
def State.setCur (s : State) (x : Session) : State :=
  { s with sessions := s.sessions.set s.sel x }

/-- Take a step of the present instance. -/
def State.onCur (s : State) (f : Session → Host.Outcome Session Fault Refusal) : Host.Outcome State Fault Refusal :=
  match s.cur with
  | none => .refused .noSuchSession
  | some x =>
    match f x with
    | .next y => .next (s.setCur y)
    | .fault r => .fault r
    | .refused r => .refused r

/-- Deliver the value of an encoder function or line symbol; nothing of any session is read or written (log 3). -/
def State.deliver (s : State) (r : Ret) : Host.Outcome State Fault Refusal :=
  .next { s with ret := r }

/-- The free values of undefined FIFO cells in the present step (93_implementation_defined.md U6, log 6). -/
def State.undefinedCells (s : State) : Nat → Bool := Config.undefinedCell s.steps

end Sys2Proof.Machine
end

