-- ==== Sys2Proof/Machine/Flags.lean ====
section
/-! DEFINITION. Machine/Flags.lean: the conditions the rules test (guards), computed from the state: the outstanding
line-set, the connection, the OPEN in progress, room for a waiter, the expiries and urgency, quiescence. -/

namespace Sys2Proof.Machine

/-- A line-set request is outstanding: `busy = 1` and `sub = WAIT_ACK` (10_state.md R31 (a), 41_engine.md R85, R89). -/
def Session.lineSetOutstanding (x : Session) : Bool := x.busy && decide (x.sub = .waitAck)

/-- A connection is open (42_session.md R103). -/
def Session.connected (x : Session) : Bool :=
  match x.conn with
  | .closed => false
  | .openAt _ => true

/-- An OPEN is in progress, from its OPEN step until its `Complete` (42_session.md R109). -/
def Session.openInProgress (x : Session) : Bool :=
  match x.sop with
  | .idle => false
  | .closeWait _ .done => false
  | .closeWait _ (.thenOpen _) => true
  | .openWait _ _ => true
  | .warmup _ => true

/-- There is room for one more waiter (10_state.md R23, 41_engine.md R84). -/
def Session.hasRoom (x : Session) : Bool :=
  match Config.maxWaiters with
  | none => true
  | some n => decide (x.waiters.length < n)

/-- The hold timer is at 0: an expiry is due (10_state.md R20). -/
def Session.expiryDue (x : Session) : Bool := decide (x.sub = .hold) && decide (x.tmr = 0)

/-- The guard of EXPIRE.BIT (41_engine.md R87). -/
def Session.bitExpiryDue (x : Session) : Bool := decide (x.phase = .sendingBit) && x.expiryDue

/-- The guard of EXPIRE.SYNC (41_engine.md R88). -/
def Session.syncExpiryDue (x : Session) : Bool := decide (x.phase = .synchronizing) && x.expiryDue

/-- A waiter's backoff has elapsed (41_engine.md R90). -/
def Session.retryDue (x : Session) : Bool := x.waiters.any fun w => decide (w.bko = 0)

/-- `sop = WARMUP` (10_state.md R26). -/
def Session.warming (x : Session) : Bool :=
  match x.sop with
  | .warmup _ => true
  | _ => false

/-- A warm-up completion is due (42_session.md R116). -/
def Session.warmupDue (x : Session) : Bool := x.warming && decide (x.wtmr = 0)

/-- An urgent step is enabled: TICK waits (41_engine.md R91). -/
def Session.urgent (x : Session) : Bool := x.expiryDue || x.retryDue || x.warmupDue

/-- Quiescent: no step but TICK and new host operations is enabled (70_reset_and_hazards.md R146). -/
def Session.quiescent (x : Session) : Bool :=
  !x.busy && x.waiters.isEmpty && decide (x.sop = .idle) && x.lpend.isEmpty

end Sys2Proof.Machine
end

