-- ==== Sys2Proof/Machine/Answers.lean ====
section
/-! DEFINITION. Machine/Answers.lean: the transport's answers to open, close and enumerate requests, and the end of the
warm-up (42_session.md R111 to R116, R120). An answer that was not asked for is refused by name (R102; log 4). -/

namespace Sys2Proof.Machine

/-- TOPEN.OK on one session (42_session.md R114). -/
def Session.topenOk (x : Session) : Host.Outcome Session Fault Refusal :=
  match x.sop with
  | .openWait id ep =>
    .next (Session.record { x with conn := .openAt ep, sop := .warmup id, wtmr := Config.warmupTicks } .topenOk)
  | _ => .refused .noOpenOutstanding

/-- TOPEN.FAIL(e) on one session (42_session.md R115, 60_exceptions.md R127). -/
def Session.topenFail (x : Session) (e : TransportError) : Host.Outcome Session Fault Refusal :=
  match x.sop with
  | .openWait id _ =>
    .next ((Session.record { x with sop := .idle } (.topenFail e)).raise id .transportOpenFailure (.error e))
  | _ => .refused .noOpenOutstanding

/-- TCLOSE.OK on one session (42_session.md R111). -/
def Session.tcloseOk (x : Session) : Host.Outcome Session Fault Refusal :=
  match x.sop with
  | .closeWait id .done =>
    .next ((Session.record { x with conn := .closed, sop := .idle } .tcloseOk).succeed id .nothing)
  | .closeWait id (.thenOpen ep) =>
    .next ((Session.record { x with conn := .closed, sop := .openWait id ep } .tcloseOk).record (.topenReq ep))
  | _ => .refused .noCloseOutstanding

/-- TCLOSE.FAIL(e) on one session: the connection is still held (42_session.md R112, 60_exceptions.md R128). -/
def Session.tcloseFail (x : Session) (e : TransportError) : Host.Outcome Session Fault Refusal :=
  match x.sop with
  | .closeWait id _ =>
    .next ((Session.record { x with sop := .idle } (.tcloseFail e)).raise id .transportCloseFailure (.error e))
  | _ => .refused .noCloseOutstanding

/-- WARMDONE on one session (42_session.md R116). -/
def Session.warmdone (x : Session) : Host.Outcome Session Fault Refusal :=
  match x.sop with
  | .warmup id =>
    if x.wtmr = 0 then .next (Session.succeed { x with sop := .idle } id .nothing) else .refused .noWarmupEnd
  | _ => .refused .noWarmupEnd

/-- TLIST.OK(id, l) on one session (42_session.md R120). -/
def Session.tlistOk (x : Session) (id : Tag) (l : List PortRecord) : Host.Outcome Session Fault Refusal :=
  if id ∈ x.lpend then
    .next ((Session.record { x with lpend := x.lpend.erase id } (.tlistOk id l)).succeed id (.ports l))
  else .refused .noListOutstanding

/-- TLIST.FAIL(id, e) on one session (42_session.md R120, 60_exceptions.md R129). -/
def Session.tlistFail (x : Session) (id : Tag) (e : TransportError) : Host.Outcome Session Fault Refusal :=
  if id ∈ x.lpend then
    .next ((Session.record { x with lpend := x.lpend.erase id } (.tlistFail id e)).raise id
      .transportEnumerateFailure (.error e))
  else .refused .noListOutstanding

/-- TOPEN.OK (42_session.md R114). -/
def execTopenOk (s : State) : Host.Outcome State Fault Refusal :=
  s.onCur Session.topenOk

/-- TOPEN.FAIL(e) (42_session.md R115). -/
def execTopenFail (e : TransportError) (s : State) : Host.Outcome State Fault Refusal :=
  s.onCur fun x => x.topenFail e

/-- TCLOSE.OK (42_session.md R111). -/
def execTcloseOk (s : State) : Host.Outcome State Fault Refusal :=
  s.onCur Session.tcloseOk

/-- TCLOSE.FAIL(e) (42_session.md R112). -/
def execTcloseFail (e : TransportError) (s : State) : Host.Outcome State Fault Refusal :=
  s.onCur fun x => x.tcloseFail e

/-- WARMDONE (42_session.md R116). -/
def execWarmdone (s : State) : Host.Outcome State Fault Refusal :=
  s.onCur Session.warmdone

/-- TLIST.OK(id, l) (42_session.md R120). -/
def execTlistOk (id : Tag) (l : List PortRecord) (s : State) : Host.Outcome State Fault Refusal :=
  s.onCur fun x => x.tlistOk id l

/-- TLIST.FAIL(id, e) (42_session.md R120). -/
def execTlistFail (id : Tag) (e : TransportError) (s : State) : Host.Outcome State Fault Refusal :=
  s.onCur fun x => x.tlistFail id e

end Sys2Proof.Machine
end

