-- ==== Sys2Proof/Machine/Encoder.lean ====
section
/-! DEFINITION. Machine/Encoder.lean: the encoder functions and the line symbols, evaluated on their own: pure, they read
only the constants and deliver a value; no element of any session is read or written (40_encoder.md R71 to R79,
30_encoding.md R58; log 3). -/

namespace Sys2Proof.Machine

/-- HOUSECODE(h) (40_encoder.md R71). -/
def execHousecode (h : Int) (s : State) : Host.Outcome State Fault Refusal :=
  s.deliver (Ret.ofEncoder (houseCode h))

/-- MODULECODE(m) (40_encoder.md R72). -/
def execModulecode (m : Int) (s : State) : Host.Outcome State Fault Refusal :=
  s.deliver (Ret.ofEncoder (moduleCode m))

/-- ENCODE(h, m, o) (40_encoder.md R75). -/
def execEncodeCommand (h m : Int) (o : Bool) (s : State) : Host.Outcome State Fault Refusal :=
  s.deliver (Ret.ofEncoder (encodeFrame h m o))

/-- FRAME.ON: ENCODE(h, m, true) (30_encoding.md R54, 40_encoder.md R75). -/
def execFrameOn (h m : Int) (s : State) : Host.Outcome State Fault Refusal :=
  s.deliver (Ret.ofEncoder (encodeFrame h m true))

/-- FRAME.OFF: ENCODE(h, m, false) (30_encoding.md R54, 40_encoder.md R75). -/
def execFrameOff (h m : Int) (s : State) : Host.Outcome State Fault Refusal :=
  s.deliver (Ret.ofEncoder (encodeFrame h m false))

/-- SYM.ONE (30_encoding.md R58). -/
def execSymOne (s : State) : Host.Outcome State Fault Refusal :=
  s.deliver (.symbol (sym true))

/-- SYM.ZERO (30_encoding.md R58). -/
def execSymZero (s : State) : Host.Outcome State Fault Refusal :=
  s.deliver (.symbol (sym false))

/-- SYM.SYNC (30_encoding.md R58). -/
def execSymSync (s : State) : Host.Outcome State Fault Refusal :=
  s.deliver (.symbol syncSymbol)

end Sys2Proof.Machine
end

