-- ==== Sys2Proof/Machine/Engine.lean ====
section
/-! DEFINITION. Machine/Engine.lean: the transmission engine (41_engine.md): XMIT, ACK.OK, ACK.FAIL, TICK, EXPIRE.BIT,
EXPIRE.SYNC, RETRY. A step outside its guard is refused by name (log 4). -/

namespace Sys2Proof.Machine

/-- XMIT on one session (41_engine.md R82 to R84): a length without a meaning is refused as such (R100); the call that
would defer with the pool full is not enabled (R84). -/
def Session.xmit (x : Session) (id : Tag) (s : Bits) : Host.Outcome Session Fault Refusal :=
  if lengthFits s && x.busy && !x.hasRoom then .refused .heldOffAtPort else x.transmit id s

/-- ACK.OK on one session (41_engine.md R85, 42_session.md R103). -/
def Session.ackOk (u : Nat → Bool) (x : Session) : Host.Outcome Session Fault Refusal :=
  if !x.lineSetOutstanding then .refused .noLineSetOutstanding
  else if !x.connected then .refused .noConnectionForSuccess
  else if x.phase = .sendingBit then
    x.withCell u x.rp fun b => .next (Session.record
      { x with lineQ := some (sym b), tmr := Config.bitTicks, sub := .hold } .ackOk)
  else .next (Session.record
    { x with lineQ := some syncSymbol, tmr := Config.bitTicks, sub := .hold } .ackOk)

/-- ACK.FAIL(e) on one session (41_engine.md R89, 60_exceptions.md R126). -/
def Session.ackFail (x : Session) (e : TransportError) : Host.Outcome Session Fault Refusal :=
  if !x.lineSetOutstanding then .refused .noLineSetOutstanding
  else .next (Session.reportOwner
    (Session.record { x.release .failed with tmr := 0, lineQ := none } (.ackFail e))
    x.owner .transportSetLinesFailure (.error e))

/-- TICK on one session (41_engine.md R86, R91). -/
def Session.tick (x : Session) : Host.Outcome Session Fault Refusal :=
  if x.urgent then .refused .urgentStepFirst
  else .next
    { x with
      tmr := if x.sub = .hold then x.tmr - 1 else x.tmr
      waiters := x.waiters.map fun w => { w with bko := w.bko - 1 }
      wtmr := if x.warming then x.wtmr - 1 else x.wtmr
      ticks := x.ticks + 1 }

/-- EXPIRE.BIT on one session (41_engine.md R87). -/
def Session.expireBit (x : Session) : Host.Outcome Session Fault Refusal :=
  if !x.bitExpiryDue then .refused .noBitExpiry
  else .next (Session.record { x with phase := .synchronizing, sub := .waitAck } (.lineSet syncSymbol))

/-- EXPIRE.SYNC on one session (41_engine.md R88). -/
def Session.expireSync (u : Nat → Bool) (x : Session) : Host.Outcome Session Fault Refusal :=
  if !x.syncExpiryDue then .refused .noSyncExpiry
  else if x.rp + 1 < x.wp then
    x.withCell u (x.rp + 1) fun b => .next (Session.record
      { x with rp := x.rp + 1, phase := .sendingBit, sub := .waitAck } (.lineSet (sym b)))
  else .next (Session.reportOwner (x.release .idle) x.owner .ok .nothing)

/-- RETRY(w) on one session: the removal and the `transmit` are one step, and it always has room (41_engine.md R84,
R90). -/
def Session.retry (x : Session) (w : Waiter) : Host.Outcome Session Fault Refusal :=
  if w ∈ x.waiters ∧ w.bko = 0 then
    Session.transmit { x with waiters := x.waiters.erase w } w.id w.bits
  else .refused .noSuchWaiterDue

/-- XMIT (41_engine.md R82). -/
def execXmit (id : Tag) (b : Bits) (s : State) : Host.Outcome State Fault Refusal :=
  s.onCur fun x => x.xmit id b

/-- ACK.OK (41_engine.md R85). -/
def execAckOk (s : State) : Host.Outcome State Fault Refusal :=
  s.onCur (Session.ackOk s.undefinedCells)

/-- ACK.FAIL(e) (41_engine.md R89). -/
def execAckFail (e : TransportError) (s : State) : Host.Outcome State Fault Refusal :=
  s.onCur fun x => x.ackFail e

/-- TICK (41_engine.md R86). -/
def execTick (s : State) : Host.Outcome State Fault Refusal :=
  s.onCur Session.tick

/-- EXPIRE.BIT (41_engine.md R87). -/
def execExpireBit (s : State) : Host.Outcome State Fault Refusal :=
  s.onCur Session.expireBit

/-- EXPIRE.SYNC (41_engine.md R88). -/
def execExpireSync (s : State) : Host.Outcome State Fault Refusal :=
  s.onCur (Session.expireSync s.undefinedCells)

/-- RETRY(w) (41_engine.md R90). -/
def execRetry (w : Waiter) (s : State) : Host.Outcome State Fault Refusal :=
  s.onCur fun x => x.retry w

end Sys2Proof.Machine
end

