-- ==== Sys2Proof/Machine/HostOps.lean ====
section
/-! DEFINITION. Machine/HostOps.lean: the host's operations (42_session.md): CREATE, SEND, OPEN, CLOSE, LIST. What the
spec refuses is refused by name (60_exceptions.md R130). -/

namespace Sys2Proof.Machine

/-- SEND(id, h, m, o) on one session (42_session.md R107 to R109). Validation comes before the test of `busy` and of the
room for a waiter (60_exceptions.md R132 (b); log 12). -/
def Session.send (x : Session) (id : Tag) (h m : Int) (o : Bool) : Host.Outcome Session Fault Refusal :=
  if x.openInProgress then .refused .sendDuringOpen
  else
    match encodeFrame h m o with
    | .error e => .next (x.raise id e.status e.info)
    | .ok f => if x.busy && !x.hasRoom then .refused .heldOffAtPort else x.transmit id f

/-- OPEN(id, ep) on one session (42_session.md R113, R117, R118). -/
def Session.openAt (x : Session) (id : Tag) (ep : Endpoint) : Host.Outcome Session Fault Refusal :=
  if x.sop ≠ .idle then .refused .sessionOperationInProgress
  else if x.busy || !x.waiters.isEmpty then .refused .openDuringTransmission
  else
    match x.conn with
    | .closed => .next (Session.record { x with sop := .openWait id ep } (.topenReq ep))
    | .openAt _ => .next (Session.record { x with sop := .closeWait id (.thenOpen ep) } .tcloseReq)

/-- CLOSE(id) on one session (42_session.md R110, R117). -/
def Session.close (x : Session) (id : Tag) : Host.Outcome Session Fault Refusal :=
  if x.sop ≠ .idle then .refused .sessionOperationInProgress
  else
    match x.conn with
    | .closed => .next (x.succeed id .nothing)
    | .openAt _ => .next (Session.record { x with sop := .closeWait id .done } .tcloseReq)

/-- LIST(id) on one session (42_session.md R119). -/
def Session.list (x : Session) (id : Tag) : Host.Outcome Session Fault Refusal :=
  .next (Session.record { x with lpend := x.lpend ++ [id] } (.tlistReq id))

/-- CREATE: every element to its reset value, no event (42_session.md R106, 70_reset_and_hazards.md R143; log 13). -/
def execCreate (s : State) : Host.Outcome State Fault Refusal :=
  s.onCur fun _ => .next Session.reset

/-- SEND(id, h, m, o) (42_session.md R107). -/
def execSend (id : Tag) (h m : Int) (o : Bool) (s : State) : Host.Outcome State Fault Refusal :=
  s.onCur fun x => x.send id h m o

/-- OPEN(id, ep) (42_session.md R113). -/
def execOpenSession (id : Tag) (ep : Endpoint) (s : State) : Host.Outcome State Fault Refusal :=
  s.onCur fun x => x.openAt id ep

/-- CLOSE(id) (42_session.md R110). -/
def execCloseSession (id : Tag) (s : State) : Host.Outcome State Fault Refusal :=
  s.onCur fun x => x.close id

/-- LIST(id) (42_session.md R119). -/
def execListPorts (id : Tag) (s : State) : Host.Outcome State Fault Refusal :=
  s.onCur fun x => x.list id

end Sys2Proof.Machine
end

