-- ==== Sys2Proof/Machine/Dispatch.lean ====
section
/-! DEFINITION. Machine/Dispatch.lean: one arm per operation of opcode_table.json, in its order. -/

namespace Sys2Proof.Machine

def exec (i : Instr) (s : State) : Host.Outcome State Fault Refusal :=
  match i with
  | .create => Sys2Proof.Machine.execCreate s
  | .send id h m o => Sys2Proof.Machine.execSend id h m o s
  | .openSession id ep => Sys2Proof.Machine.execOpenSession id ep s
  | .closeSession id => Sys2Proof.Machine.execCloseSession id s
  | .listPorts id => Sys2Proof.Machine.execListPorts id s
  | .housecode h => Sys2Proof.Machine.execHousecode h s
  | .modulecode m => Sys2Proof.Machine.execModulecode m s
  | .encodeCommand h m o => Sys2Proof.Machine.execEncodeCommand h m o s
  | .frameOn h m => Sys2Proof.Machine.execFrameOn h m s
  | .frameOff h m => Sys2Proof.Machine.execFrameOff h m s
  | .xmit id b => Sys2Proof.Machine.execXmit id b s
  | .symOne => Sys2Proof.Machine.execSymOne s
  | .symZero => Sys2Proof.Machine.execSymZero s
  | .symSync => Sys2Proof.Machine.execSymSync s
  | .ackOk => Sys2Proof.Machine.execAckOk s
  | .ackFail e => Sys2Proof.Machine.execAckFail e s
  | .tick => Sys2Proof.Machine.execTick s
  | .expireBit => Sys2Proof.Machine.execExpireBit s
  | .expireSync => Sys2Proof.Machine.execExpireSync s
  | .retry w => Sys2Proof.Machine.execRetry w s
  | .topenOk => Sys2Proof.Machine.execTopenOk s
  | .topenFail e => Sys2Proof.Machine.execTopenFail e s
  | .tcloseOk => Sys2Proof.Machine.execTcloseOk s
  | .tcloseFail e => Sys2Proof.Machine.execTcloseFail e s
  | .warmdone => Sys2Proof.Machine.execWarmdone s
  | .tlistOk id l => Sys2Proof.Machine.execTlistOk id l s
  | .tlistFail id e => Sys2Proof.Machine.execTlistFail id e s

end Sys2Proof.Machine
end

