-- ==== Sys2Proof/Machine/Ports.lean ====
section
/-! DEFINITION. Machine/Ports.lean: the codes of the state elements and the block's output ports as functions of the
state and of the events emitted (10_state.md R14, R15, R24, R25; 30_encoding.md R58, R61 to R63). No operation reads
them. -/

namespace Sys2Proof.Machine

/-- The 2-bit code of `phase` (10_state.md R14), which is the status output `phase[1:0]` (30_encoding.md R61). -/
def Phase.code : Phase → BitVec 2
  | .idle => 0b00#2
  | .sendingBit => 0b01#2
  | .synchronizing => 0b10#2
  | .failed => 0b11#2

/-- The 1-bit code of `sub` (10_state.md R15). -/
def Sub.code : Sub → BitVec 1
  | .waitAck => 0#1
  | .hold => 1#1

/-- `conn_open` (10_state.md R24). -/
def Conn.openBit : Conn → BitVec 1
  | .closed => 0#1
  | .openAt _ => 1#1

/-- The 2-bit code of `sop` (10_state.md R25). -/
def Sop.code : Sop → BitVec 2
  | .idle => 0b00#2
  | .closeWait _ _ => 0b01#2
  | .openWait _ _ => 0b10#2
  | .warmup _ => 0b11#2

/-- `sop_next` (10_state.md R25). -/
def CloseNext.code : CloseNext → BitVec 1
  | .done => 0#1
  | .thenOpen _ => 1#1

/-- Format ST3 (30_encoding.md R63). -/
def Status.code : Status → BitVec 3
  | .ok => 0#3
  | .invalidHouse => 1#3
  | .invalidModule => 2#3
  | .transportOpenFailure => 3#3
  | .transportCloseFailure => 4#3
  | .transportSetLinesFailure => 5#3
  | .transportEnumerateFailure => 6#3

/-- The status of a code; 7 is reserved (30_encoding.md R63). -/
def Status.ofCode (c : BitVec 3) : Option Status :=
  if c = 0#3 then some .ok
  else if c = 1#3 then some .invalidHouse
  else if c = 2#3 then some .invalidModule
  else if c = 3#3 then some .transportOpenFailure
  else if c = 4#3 then some .transportCloseFailure
  else if c = 5#3 then some .transportSetLinesFailure
  else if c = 6#3 then some .transportEnumerateFailure
  else none

/-- `set_valid` with `set_sym` (30_encoding.md R61). -/
def Event.setPort : Event → Option (BitVec 2)
  | .lineSet l => some l.code
  | _ => none

/-- `topen_valid` with `topen_ep` and LINK_BAUD (30_encoding.md R61). -/
def Event.topenPort : Event → Option (Endpoint × Nat)
  | .topenReq ep => some (ep, Config.linkBaud)
  | _ => none

/-- `tclose_valid` (30_encoding.md R61). -/
def Event.tclosePort : Event → Bool
  | .tcloseReq => true
  | _ => false

/-- `tlist_valid` with `tlist_id` (30_encoding.md R61). -/
def Event.tlistPort : Event → Option Tag
  | .tlistReq id => some id
  | _ => none

/-- `cpl_valid` with `cpl_id`, `cpl_status`, `cpl_info` (30_encoding.md R62). -/
def Event.completionPort : Event → Option (Tag × BitVec 3 × Info)
  | .complete id status info => some (id, status.code, info)
  | _ => none

/-- The status output `busy` (30_encoding.md R61). -/
def Session.busyPort (x : Session) : BitVec 1 := BitVec.ofBool x.busy

/-- The pattern `(phase[1:0], sub, tmr=0)` over the state (opcode_table.json, EXPIRE.BIT and EXPIRE.SYNC). -/
def Session.engineGuard (x : Session) : BitVec 4 :=
  x.phase.code ++ (x.sub.code ++ BitVec.ofBool (decide (x.tmr = 0)))

/-- The pattern `(sop[1:0], wtmr=0)` over the state (opcode_table.json, WARMDONE). -/
def Session.sessionGuard (x : Session) : BitVec 3 :=
  x.sop.code ++ BitVec.ofBool (decide (x.wtmr = 0))

end Sys2Proof.Machine
end

