-- ==== Sys2Proof/Machine/Step.lean ====
section
/-! DEFINITION. Machine/Step.lean: one step of the machine: the next chosen step is taken from the schedule, decoded and
run on its instance (20_memory.md R47, 10_state.md R30; log 2). -/

namespace Sys2Proof.Machine

/-- The state in which a chosen step runs: the entry taken, its instance selected, the step counted. -/
def State.begin (s : State) (e : ScheduleEntry) (rest : List ScheduleEntry) : State :=
  { s with sched := rest, sel := e.inst, steps := s.steps + 1 }

/-- One atomic step of one agent (20_memory.md R47). -/
def step (s : State) : Host.Outcome State Fault Refusal :=
  match s.sched with
  | [] => .refused .noStepChosen
  | e :: rest =>
    match decode e.what with
    | .error r => .refused (.undecodable r)
    | .ok i => exec i (s.begin e rest)

/-- The state with a bare table word as the next chosen step, of instance 0; a word the table's conventions give no port
stands as a command port with nothing presented (log 10). -/
def State.withFetchWord (s : State) (nbits w : Nat) : State :=
  match tablePresentation nbits w with
  | some p => { s with sched := ⟨0, p⟩ :: s.sched }
  | none => { s with sched := ⟨0, .cmd false 0 0 noEndpoint⟩ :: s.sched }

end Sys2Proof.Machine
end

