-- ==== Sys2Proof/Safety.lean ====
section
/-! DEFINITION. Safety.lean: the terms claims are stated in: the invariants of 10_state.md R32 and of the wire
(20_memory.md R48), the wire sequence of a transmission (41_engine.md R93), runs of chosen steps. -/

namespace Sys2Proof.Machine

/-! ## Views of a session -/

/-- The line symbol of an event, where it is a LineSet. -/
def Event.lineSymbol : Event → Option LineState
  | .lineSet l => some l
  | _ => none

/-- The LineSet symbols of a history, oldest first (20_memory.md R48). -/
def lineSets (h : List HistEntry) : List LineState := h.filterMap fun e => e.event.lineSymbol

/-- Answers to line-sets in a history. -/
def Event.isLineAnswer : Event → Bool
  | .ackOk => true
  | .ackFail _ => true
  | _ => false

/-- How many line-set answers a history holds. -/
def lineAnswers (h : List HistEntry) : Nat := h.countP fun e => e.event.isLineAnswer

/-- The wire sequence of a bit sequence: each bit's symbol, then SYNC (30_encoding.md R59, 41_engine.md R93). -/
def wire : Bits → List LineState
  | [] => []
  | b :: bs => sym b :: syncSymbol :: wire bs

/-- The sequence loaded by the last accept: the cells below `wp` (10_state.md R17, R18). -/
def Session.loaded (x : Session) : Bits := (List.range x.wp).filterMap (Memory.read x.fmem)

/-- How many line-sets of the transmission in flight have been issued (41_engine.md R93). -/
def Session.wireCount (x : Session) : Nat := 2 * x.rp + if x.phase = .sendingBit then 1 else 2

/-! ## Invariants -/

/-- The invariants of 10_state.md R32 on one session, clause by clause, with what R17, R20 and R23 say of the FIFO and
of the pool's capacity. Clause (h) is said on the history: as many line-sets as answers, and one more while one is
outstanding. Clause (i) is said of the hold that a completion ends. -/
structure Session.Inv (x : Session) : Prop where
  /-- R32 (a). -/
  pointers : x.rp ≤ x.wp ∧ x.wp ≤ Config.fifoDepth
  /-- R32 (b). -/
  busy_iff : x.busy = true ↔ x.phase = .sendingBit ∨ x.phase = .synchronizing
  /-- R32 (c). -/
  idle : x.busy = false → x.rp = 0 ∧ x.wp = 0 ∧ x.sub = .waitAck ∧ x.tmr = 0 ∧ x.owner = none
  /-- R32 (d). -/
  inFlight : x.busy = true → x.rp < x.wp ∧ ∃ id, x.owner = some id
  /-- R32 (e), first half. -/
  waiting : x.sub = .waitAck → x.tmr = 0
  /-- R32 (e), second half. -/
  holding : x.sub = .hold → x.busy = true ∧ x.tmr ≤ Config.bitTicks
  /-- R32 (f). -/
  waiterRanges : ∀ w ∈ x.waiters, w.bko ≤ Config.backoffTicks ∧ 1 ≤ w.bits.length ∧ w.bits.length ≤ Config.fifoDepth
  /-- R23: the capacity of the pool. -/
  waiterPool : ∀ n, Config.maxWaiters = some n → x.waiters.length ≤ n
  /-- R32 (g), a warm-up. -/
  warmupHeld : ∀ id, x.sop = .warmup id → (∃ ep, x.conn = .openAt ep) ∧ x.wtmr ≤ Config.warmupTicks
  /-- R32 (g), an open outstanding. -/
  openWaitClosed : ∀ id ep, x.sop = .openWait id ep → x.conn = .closed
  /-- R32 (g), a close outstanding. -/
  closeWaitHeld : ∀ id next, x.sop = .closeWait id next → ∃ ep, x.conn = .openAt ep
  /-- R32 (g), the warm-up counter otherwise. -/
  wtmrIdle : (∀ id, x.sop ≠ .warmup id) → x.wtmr = 0
  /-- R32 (h). -/
  oneOutstanding :
    (lineSets x.hist).length = lineAnswers x.hist + if x.lineSetOutstanding = true then 1 else 0
  /-- R32 (i), at the hold whose end completes. -/
  syncHeld : x.phase = .synchronizing → x.sub = .hold → x.lineQ = some syncSymbol
  /-- R17: the FIFO is in canonical form. -/
  fifoForm : Memory.wf x.fmem
  /-- R17: every cell below `wp` holds a value. -/
  fifoLoaded : ∀ a, a < x.wp → ∃ b, Memory.read x.fmem a = some b

/-- Every instance keeps R32. -/
def State.Inv (s : State) : Prop := ∀ x ∈ s.sessions, x.Inv

/-- 20_memory.md R48 (a), (c): while a transmission is in flight, the last line-sets of the history are the first ones
of the wire sequence of the loaded bits, with nothing between them. -/
def Session.WireInv (x : Session) : Prop :=
  x.busy = true → ∃ before, lineSets x.hist = before ++ (wire x.loaded).take x.wireCount

/-- Every instance's line-sets are in wire order. -/
def State.WireInv (s : State) : Prop := ∀ x ∈ s.sessions, x.WireInv

/-- 42_session.md R109: while an OPEN is in progress nothing is in flight or deferred. -/
def Session.OpenQuiet (x : Session) : Prop :=
  x.openInProgress = true → x.busy = false ∧ x.waiters = []

/-- Every symbol of the history is one of the three of 30_encoding.md R58. -/
def Session.SymbolsKnown (x : Session) : Prop :=
  ∀ l ∈ lineSets x.hist, l = sym true ∨ l = sym false ∨ l = syncSymbol

/-- The engine elements that no host operation but CREATE and an accepted SEND changes (41_engine.md R96). -/
def Session.sameEngine (x y : Session) : Prop :=
  y.phase = x.phase ∧ y.sub = x.sub ∧ y.busy = x.busy ∧ y.fmem = x.fmem ∧ y.wp = x.wp ∧ y.rp = x.rp ∧
    y.tmr = x.tmr ∧ y.owner = x.owner ∧ y.lineQ = x.lineQ

/-! ## Runs of chosen steps -/

/-- The operations in turn, stopping at the first that does not answer a next state (00_scope.md section 6). -/
def runInstrs : List Instr → State → Host.Outcome State Fault Refusal
  | [], s => .next s
  | i :: rest, s =>
    match exec i s with
    | .next t => runInstrs rest t
    | .fault r => .fault r
    | .refused r => .refused r

/-- The steps that follow the `k`-th line-set of a transmission, `k` counted from 0, when it succeeds: its answer, the
hold of BIT_TICKS, the expiry (41_engine.md R92, R93). -/
def lineSetSteps (k : Nat) : List Instr :=
  .ackOk :: (List.replicate Config.bitTicks .tick ++ [if k % 2 = 0 then .expireBit else .expireSync])

/-- The steps that follow the first `n` line-sets. -/
def transmissionSteps : Nat → List Instr
  | 0 => []
  | n + 1 => transmissionSteps n ++ lineSetSteps n

end Sys2Proof.Machine
end

