-- ==== Sys2Proof/Laws/State.lean ====
section
/-! SUPPORT. Laws/State.lean: one lemma per field per update of a session and of the state, so that no later proof
unfolds an update. -/

namespace Sys2Proof.Machine

/-! ## `Session.record` -/

section Record
variable (x : Session) (e : Event)
@[simp] theorem Session.record_phase : (x.record e).phase = x.phase := rfl
@[simp] theorem Session.record_sub : (x.record e).sub = x.sub := rfl
@[simp] theorem Session.record_busy : (x.record e).busy = x.busy := rfl
@[simp] theorem Session.record_fmem : (x.record e).fmem = x.fmem := rfl
@[simp] theorem Session.record_wp : (x.record e).wp = x.wp := rfl
@[simp] theorem Session.record_rp : (x.record e).rp = x.rp := rfl
@[simp] theorem Session.record_tmr : (x.record e).tmr = x.tmr := rfl
@[simp] theorem Session.record_owner : (x.record e).owner = x.owner := rfl
@[simp] theorem Session.record_lineQ : (x.record e).lineQ = x.lineQ := rfl
@[simp] theorem Session.record_waiters : (x.record e).waiters = x.waiters := rfl
@[simp] theorem Session.record_conn : (x.record e).conn = x.conn := rfl
@[simp] theorem Session.record_sop : (x.record e).sop = x.sop := rfl
@[simp] theorem Session.record_wtmr : (x.record e).wtmr = x.wtmr := rfl
@[simp] theorem Session.record_lpend : (x.record e).lpend = x.lpend := rfl
@[simp] theorem Session.record_hist : (x.record e).hist = x.hist ++ [⟨x.ticks, e⟩] := rfl
@[simp] theorem Session.record_ticks : (x.record e).ticks = x.ticks := rfl
end Record

/-! ## Reports -/

section Reports
variable (x : Session) (id : Tag) (k : Status) (i : Info)
@[simp] theorem Session.raise_eq : x.raise id k i = x.record (.complete id k i) := rfl
@[simp] theorem Session.succeed_eq : x.succeed id i = x.record (.complete id .ok i) := rfl
@[simp] theorem Session.reportOwner_some : x.reportOwner (some id) k i = x.record (.complete id k i) := rfl
@[simp] theorem Session.reportOwner_none : x.reportOwner none k i = x := rfl
end Reports

/-! ## `Session.release` -/

section Release
variable (x : Session) (p : Phase)
@[simp] theorem Session.release_phase : (x.release p).phase = p := rfl
@[simp] theorem Session.release_sub : (x.release p).sub = .waitAck := rfl
@[simp] theorem Session.release_busy : (x.release p).busy = false := rfl
@[simp] theorem Session.release_fmem : (x.release p).fmem = x.fmem := rfl
@[simp] theorem Session.release_wp : (x.release p).wp = 0 := rfl
@[simp] theorem Session.release_rp : (x.release p).rp = 0 := rfl
@[simp] theorem Session.release_tmr : (x.release p).tmr = x.tmr := rfl
@[simp] theorem Session.release_owner : (x.release p).owner = none := rfl
@[simp] theorem Session.release_lineQ : (x.release p).lineQ = x.lineQ := rfl
@[simp] theorem Session.release_waiters : (x.release p).waiters = x.waiters := rfl
@[simp] theorem Session.release_conn : (x.release p).conn = x.conn := rfl
@[simp] theorem Session.release_sop : (x.release p).sop = x.sop := rfl
@[simp] theorem Session.release_wtmr : (x.release p).wtmr = x.wtmr := rfl
@[simp] theorem Session.release_lpend : (x.release p).lpend = x.lpend := rfl
@[simp] theorem Session.release_hist : (x.release p).hist = x.hist := rfl
@[simp] theorem Session.release_ticks : (x.release p).ticks = x.ticks := rfl
end Release

/-! ## `Session.accept` and `Session.defer` -/

section Accept
variable (x : Session) (id : Tag) (b : Bool) (bs s : Bits)
@[simp] theorem Session.accept_phase : (x.accept id b bs).phase = .sendingBit := rfl
@[simp] theorem Session.accept_sub : (x.accept id b bs).sub = .waitAck := rfl
@[simp] theorem Session.accept_busy : (x.accept id b bs).busy = true := rfl
@[simp] theorem Session.accept_fmem : (x.accept id b bs).fmem = Memory.writeFrom x.fmem 0 (b :: bs) := rfl
@[simp] theorem Session.accept_wp : (x.accept id b bs).wp = bs.length + 1 := rfl
@[simp] theorem Session.accept_rp : (x.accept id b bs).rp = 0 := rfl
@[simp] theorem Session.accept_tmr : (x.accept id b bs).tmr = 0 := rfl
@[simp] theorem Session.accept_owner : (x.accept id b bs).owner = some id := rfl
@[simp] theorem Session.accept_lineQ : (x.accept id b bs).lineQ = x.lineQ := rfl
@[simp] theorem Session.accept_waiters : (x.accept id b bs).waiters = x.waiters := rfl
@[simp] theorem Session.accept_conn : (x.accept id b bs).conn = x.conn := rfl
@[simp] theorem Session.accept_sop : (x.accept id b bs).sop = x.sop := rfl
@[simp] theorem Session.accept_wtmr : (x.accept id b bs).wtmr = x.wtmr := rfl
@[simp] theorem Session.accept_lpend : (x.accept id b bs).lpend = x.lpend := rfl
@[simp] theorem Session.accept_hist :
    (x.accept id b bs).hist = x.hist ++ [⟨x.ticks, .lineSet (sym b)⟩] := rfl
@[simp] theorem Session.accept_ticks : (x.accept id b bs).ticks = x.ticks := rfl

@[simp] theorem Session.defer_phase : (x.defer id s).phase = x.phase := rfl
@[simp] theorem Session.defer_sub : (x.defer id s).sub = x.sub := rfl
@[simp] theorem Session.defer_busy : (x.defer id s).busy = x.busy := rfl
@[simp] theorem Session.defer_fmem : (x.defer id s).fmem = x.fmem := rfl
@[simp] theorem Session.defer_wp : (x.defer id s).wp = x.wp := rfl
@[simp] theorem Session.defer_rp : (x.defer id s).rp = x.rp := rfl
@[simp] theorem Session.defer_tmr : (x.defer id s).tmr = x.tmr := rfl
@[simp] theorem Session.defer_owner : (x.defer id s).owner = x.owner := rfl
@[simp] theorem Session.defer_lineQ : (x.defer id s).lineQ = x.lineQ := rfl
@[simp] theorem Session.defer_waiters :
    (x.defer id s).waiters = x.waiters ++ [⟨id, s, Config.backoffTicks⟩] := rfl
@[simp] theorem Session.defer_conn : (x.defer id s).conn = x.conn := rfl
@[simp] theorem Session.defer_sop : (x.defer id s).sop = x.sop := rfl
@[simp] theorem Session.defer_wtmr : (x.defer id s).wtmr = x.wtmr := rfl
@[simp] theorem Session.defer_lpend : (x.defer id s).lpend = x.lpend := rfl
@[simp] theorem Session.defer_hist : (x.defer id s).hist = x.hist := rfl
@[simp] theorem Session.defer_ticks : (x.defer id s).ticks = x.ticks := rfl
end Accept

/-! ## `State.setCur` and `State.begin` -/

section Instances
variable (s : State) (x y : Session) (e : ScheduleEntry) (rest : List ScheduleEntry)
@[simp] theorem State.setCur_sel : (s.setCur x).sel = s.sel := rfl
@[simp] theorem State.setCur_sched : (s.setCur x).sched = s.sched := rfl
@[simp] theorem State.setCur_steps : (s.setCur x).steps = s.steps := rfl
@[simp] theorem State.setCur_ret : (s.setCur x).ret = s.ret := rfl
@[simp] theorem State.setCur_sessions : (s.setCur x).sessions = s.sessions.set s.sel x := rfl
@[simp] theorem State.setCur_undefinedCells : (s.setCur x).undefinedCells = s.undefinedCells := rfl

@[simp] theorem State.begin_sessions : (s.begin e rest).sessions = s.sessions := rfl
@[simp] theorem State.begin_sel : (s.begin e rest).sel = e.inst := rfl
@[simp] theorem State.begin_sched : (s.begin e rest).sched = rest := rfl
@[simp] theorem State.begin_steps : (s.begin e rest).steps = s.steps + 1 := rfl
@[simp] theorem State.begin_ret : (s.begin e rest).ret = s.ret := rfl

/-- The present instance reads back what was set. -/
theorem State.cur_setCur (h : s.cur = some y) : (s.setCur x).cur = some x := by
  have hlt : s.sel < s.sessions.length := (List.getElem?_eq_some_iff.mp h).1
  simp [State.cur, hlt]

/-- Setting twice is setting once. -/
@[simp] theorem State.setCur_setCur : (s.setCur x).setCur y = s.setCur y := by
  simp [State.setCur]

/-- Every other instance is left alone (10_state.md R34). -/
theorem State.setCur_other (k : Nat) (h : k ≠ s.sel) : (s.setCur x).sessions[k]? = s.sessions[k]? := by
  simp [List.getElem?_set_ne h.symm]

/-- Every instance after a set is the one set or one from before. -/
theorem State.mem_setCur (h : y ∈ (s.setCur x).sessions) : y = x ∨ y ∈ s.sessions :=
  (List.mem_or_eq_of_mem_set h).symm

/-- The present instance is one of the instances. -/
theorem State.cur_mem (h : s.cur = some x) : x ∈ s.sessions :=
  List.mem_of_getElem? h
end Instances

/-! ## Histories -/

@[simp] theorem lineSets_nil : lineSets [] = [] := rfl

@[simp] theorem lineSets_cons (n : Nat) (e : Event) (h : List HistEntry) :
    lineSets (⟨n, e⟩ :: h) = e.lineSymbol.toList ++ lineSets h := by
  cases e <;> rfl

@[simp] theorem lineSets_append (h k : List HistEntry) : lineSets (h ++ k) = lineSets h ++ lineSets k :=
  List.filterMap_append

@[simp] theorem lineAnswers_nil : lineAnswers [] = 0 := rfl

@[simp] theorem lineAnswers_cons (n : Nat) (e : Event) (h : List HistEntry) :
    lineAnswers (⟨n, e⟩ :: h) = lineAnswers h + if e.isLineAnswer then 1 else 0 :=
  List.countP_cons

@[simp] theorem lineAnswers_append (h k : List HistEntry) :
    lineAnswers (h ++ k) = lineAnswers h + lineAnswers k :=
  List.countP_append

end Sys2Proof.Machine
end

