-- ==== Sys2Proof/Laws/PerInstr.lean ====
section
/-! SUPPORT. Laws/PerInstr.lean: the fields of a command word read back, and the round trip of the encoding, one lemma
per operation. -/

namespace Sys2Proof

/-- The bits of a command word, field by field (30_encoding.md R60). -/
theorem commandWord_bit (op : BitVec 2) (o : Bool) (h m : Int) (i : Nat) :
    (commandWord op o h m).getLsbD i =
      if i < 8 then (BitVec.ofInt 8 m).getLsbD i
      else if i < 16 then (BitVec.ofInt 8 h).getLsbD (i - 8)
      else if i < 17 then (BitVec.ofBool o).getLsbD (i - 16)
      else op.getLsbD (i - 17) := by
  show @BitVec.getLsbD (2 + (1 + (8 + 8))) (op ++ (BitVec.ofBool o ++ (BitVec.ofInt 8 h ++ BitVec.ofInt 8 m))) i = _
  rw [BitVec.getLsbD_append, BitVec.getLsbD_append, BitVec.getLsbD_append]
  by_cases h8 : i < 8
  · simp [h8, show i < 17 by omega, show i < 16 by omega]
  · by_cases h16 : i < 16
    · simp [h8, h16, show i < 17 by omega]
    · by_cases h17 : i < 17
      · simp [h8, h16, h17]
      · simp [h8, h16, h17]

/-- The operation field reads back. -/
theorem cmdOp_commandWord (op : BitVec 2) (o : Bool) (h m : Int) : cmdOp (commandWord op o h m) = op := by
  apply BitVec.eq_of_getLsbD_eq
  intro i hi
  rw [cmdOp, BitVec.getLsbD_extractLsb', commandWord_bit, if_neg (by omega), if_neg (by omega), if_neg (by omega),
    Nat.add_sub_cancel_left]
  simp [hi]

/-- The on/off field reads back. -/
theorem cmdOn_commandWord (op : BitVec 2) (o : Bool) (h m : Int) : cmdOn (commandWord op o h m) = o := by
  rw [cmdOn, commandWord_bit]
  simp

/-- An index that fits its field reads back, signed. -/
theorem toInt_ofInt_of_fits {n : Int} (hn : indexFits n = true) : (BitVec.ofInt 8 n).toInt = n := by
  simp only [indexFits, Bool.and_eq_true, decide_eq_true_eq] at hn
  rw [BitVec.toInt_ofInt]
  exact Int.bmod_eq_of_le (by omega) (by omega)

/-- The house field reads back. -/
theorem cmdHouse_commandWord (op : BitVec 2) (o : Bool) (h m : Int) (hh : indexFits h = true) :
    cmdHouse (commandWord op o h m) = h := by
  have : (commandWord op o h m).extractLsb' 8 8 = BitVec.ofInt 8 h := by
    apply BitVec.eq_of_getLsbD_eq
    intro i hi
    rw [BitVec.getLsbD_extractLsb', commandWord_bit, if_neg (by omega), if_pos (by omega), Nat.add_sub_cancel_left]
    simp [hi]
  rw [cmdHouse, this, toInt_ofInt_of_fits hh]

/-- The module field reads back. -/
theorem cmdModule_commandWord (op : BitVec 2) (o : Bool) (h m : Int) (hm : indexFits m = true) :
    cmdModule (commandWord op o h m) = m := by
  have : (commandWord op o h m).extractLsb' 0 8 = BitVec.ofInt 8 m := by
    apply BitVec.eq_of_getLsbD_eq
    intro i hi
    rw [BitVec.getLsbD_extractLsb', commandWord_bit, if_pos (by omega), Nat.zero_add]
    simp [hi]
  rw [cmdModule, this, toInt_ofInt_of_fits hm]

/-- The three symbols and their codes, for either value of ONE_LINE (30_encoding.md R58). -/
theorem sym_codes :
    ((sym true).code = 0b10#2 ∧ (sym false).code = 0b01#2) ∨ ((sym true).code = 0b01#2 ∧ (sym false).code = 0b10#2) := by
  unfold sym
  cases Config.oneLine
  · exact .inl ⟨rfl, rfl⟩
  · exact .inr ⟨rfl, rfl⟩

theorem syncSymbol_code : syncSymbol.code = 0b11#2 := rfl

namespace Laws.RoundTrip

/-- An operation its port can carry is read back from its presentation. -/
def Statement (i : Instr) : Prop := i.wellFormed = true → decode (encode i) = .ok i

theorem create : Statement .create := fun _ => rfl

theorem send (id : Tag) (h m : Int) (o : Bool) : Statement (.send id h m o) := by
  intro hw
  simp only [Instr.wellFormed, Bool.and_eq_true] at hw
  simp [encode, decode, decodeCommand, sendWord, cmdOp_commandWord, cmdOn_commandWord,
    cmdHouse_commandWord _ _ _ _ hw.1.1, cmdModule_commandWord _ _ _ _ hw.1.2]

theorem openSession (id : Tag) (ep : Endpoint) : Statement (.openSession id ep) := by
  intro _
  simp [encode, decode, decodeCommand, cmdOp_commandWord]

theorem closeSession (id : Tag) : Statement (.closeSession id) := by
  intro _
  simp [encode, decode, decodeCommand, cmdOp_commandWord]

theorem listPorts (id : Tag) : Statement (.listPorts id) := by
  intro _
  simp [encode, decode, decodeCommand, cmdOp_commandWord]

theorem housecode (h : Int) : Statement (.housecode h) := by
  intro hw
  simp only [Instr.wellFormed] at hw
  simp [encode, decode, fromSendWord, sendWord, cmdOp_commandWord, cmdHouse_commandWord _ _ _ _ hw]

theorem modulecode (m : Int) : Statement (.modulecode m) := by
  intro hw
  simp only [Instr.wellFormed] at hw
  simp [encode, decode, fromSendWord, sendWord, cmdOp_commandWord, cmdModule_commandWord _ _ _ _ hw]

theorem encodeCommand (h m : Int) (o : Bool) : Statement (.encodeCommand h m o) := by
  intro hw
  simp only [Instr.wellFormed, Bool.and_eq_true] at hw
  simp [encode, decode, fromSendWord, sendWord, cmdOp_commandWord, cmdOn_commandWord,
    cmdHouse_commandWord _ _ _ _ hw.1, cmdModule_commandWord _ _ _ _ hw.2]

theorem frameOn (h m : Int) : Statement (.frameOn h m) := by
  intro hw
  simp only [Instr.wellFormed, Bool.and_eq_true] at hw
  simp [encode, decode, fromSendWord, sendWord, cmdOp_commandWord, cmdOn_commandWord,
    cmdHouse_commandWord _ _ _ _ hw.1, cmdModule_commandWord _ _ _ _ hw.2]

theorem frameOff (h m : Int) : Statement (.frameOff h m) := by
  intro hw
  simp only [Instr.wellFormed, Bool.and_eq_true] at hw
  simp [encode, decode, fromSendWord, sendWord, cmdOp_commandWord, cmdOn_commandWord,
    cmdHouse_commandWord _ _ _ _ hw.1, cmdModule_commandWord _ _ _ _ hw.2]

theorem xmit (id : Tag) (s : Bits) : Statement (.xmit id s) := fun _ => rfl

theorem symOne : Statement .symOne := by
  intro _
  rcases sym_codes with ⟨h1, h0⟩ | ⟨h1, h0⟩ <;> simp [encode, decode, decodeSymbol, h1, syncSymbol_code]

theorem symZero : Statement .symZero := by
  intro _
  rcases sym_codes with ⟨h1, h0⟩ | ⟨h1, h0⟩ <;> simp [encode, decode, decodeSymbol, h1, h0, syncSymbol_code]

theorem symSync : Statement .symSync := by
  intro _
  simp [encode, decode, decodeSymbol, syncSymbol_code]

theorem ackOk : Statement .ackOk := fun _ => rfl
theorem ackFail (e : TransportError) : Statement (.ackFail e) := fun _ => rfl
theorem tick : Statement .tick := fun _ => rfl
theorem expireBit : Statement .expireBit := fun _ => rfl
theorem expireSync : Statement .expireSync := fun _ => rfl
theorem retry (w : Waiter) : Statement (.retry w) := fun _ => rfl
theorem topenOk : Statement .topenOk := fun _ => rfl
theorem topenFail (e : TransportError) : Statement (.topenFail e) := fun _ => rfl
theorem tcloseOk : Statement .tcloseOk := fun _ => rfl
theorem tcloseFail (e : TransportError) : Statement (.tcloseFail e) := fun _ => rfl
theorem warmdone : Statement .warmdone := fun _ => rfl
theorem tlistOk (id : Tag) (l : List PortRecord) : Statement (.tlistOk id l) := fun _ => rfl
theorem tlistFail (id : Tag) (e : TransportError) : Statement (.tlistFail id e) := fun _ => rfl

end Laws.RoundTrip

end Sys2Proof
end

