-- ==== Sys2Proof/Laws/Ops.lean ====
section
/-! SUPPORT. Laws/Ops.lean: for each shared operation, what it can do, said once. -/

namespace Sys2Proof.Machine

/-! ## The FIFO's cells -/

/-- Reading the cell just written gives the value written. -/
theorem Memory.read_write_same (m : Memory) (a : Nat) (b : Bool) : Memory.read (Memory.write m a b) a = some b := by
  induction m with
  | nil => simp [Memory.write, Memory.read]
  | cons c rest ih =>
    obtain ⟨k, v⟩ := c
    unfold Memory.write
    split
    · simp [Memory.read]
    · split
      · simp [Memory.read]
      · simp_all [Memory.read]

/-- A write leaves every other cell alone. -/
theorem Memory.read_write_other (m : Memory) (a c : Nat) (b : Bool) (h : c ≠ a) :
    Memory.read (Memory.write m a b) c = Memory.read m c := by
  induction m with
  | nil => simp [Memory.write, Memory.read, h]
  | cons e rest ih =>
    obtain ⟨k, v⟩ := e
    unfold Memory.write
    split
    · simp [Memory.read, h]
    · split
      · rename_i hk
        subst hk
        simp [Memory.read, h]
      · simp only [Memory.read, ih]

/-- The addresses after a write are those before and the one written. -/
theorem Memory.mem_write (m : Memory) (a : Nat) (b : Bool) (c : Nat)
    (h : c ∈ (Memory.write m a b).map Prod.fst) : c = a ∨ c ∈ m.map Prod.fst := by
  induction m with
  | nil => simpa [Memory.write] using h
  | cons e rest ih =>
    obtain ⟨k, v⟩ := e
    unfold Memory.write at h
    split at h
    · simpa using h
    · split at h
      · rename_i hk
        subst hk
        simp at h ⊢
        tauto
      · simp only [List.map_cons, List.mem_cons] at h ⊢
        rcases h with h | h
        · exact .inr (.inl h)
        · rcases ih h with h | h
          · exact .inl h
          · exact .inr (.inr h)

/-- A write to an address of the FIFO keeps the canonical form. -/
theorem Memory.write_wf (m : Memory) (a : Nat) (b : Bool) (h : Memory.wf m) (ha : a < Config.fifoDepth) :
    Memory.wf (Memory.write m a b) := by
  obtain ⟨hs, hr⟩ := h
  refine ⟨?_, fun c hc => ?_⟩
  · clear hr
    induction m with
    | nil => simp [Memory.write]
    | cons e rest ih =>
      obtain ⟨k, v⟩ := e
      simp only [List.map_cons, List.pairwise_cons] at hs
      obtain ⟨hk, hrest⟩ := hs
      unfold Memory.write
      split
      · rename_i hlt
        simp only [List.map_cons, List.pairwise_cons, List.mem_cons]
        refine ⟨fun c hc => ?_, hk, hrest⟩
        rcases hc with rfl | hc
        · exact hlt
        · exact lt_trans hlt (hk c hc)
      · split
        · rename_i heq
          subst heq
          simp only [List.map_cons, List.pairwise_cons]
          exact ⟨hk, hrest⟩
        · simp only [List.map_cons, List.pairwise_cons]
          refine ⟨fun c hc => ?_, ih hrest⟩
          rcases Memory.mem_write _ _ _ _ hc with rfl | hc
          · omega
          · exact hk c hc
  · rcases Memory.mem_write _ _ _ _ hc with rfl | hc
    · exact ha
    · exact hr c hc

/-- MemWrite keeps the canonical form where it stays inside the FIFO. -/
theorem Memory.writeFrom_wf (s : Bits) (m : Memory) (a : Nat) (h : Memory.wf m)
    (ha : a + s.length ≤ Config.fifoDepth) : Memory.wf (Memory.writeFrom m a s) := by
  induction s generalizing m a with
  | nil => exact h
  | cons b bs ih =>
    simp only [List.length_cons] at ha
    exact ih _ _ (Memory.write_wf m a b h (by omega)) (by omega)

/-- MemWrite leaves the cells below its first address alone. -/
theorem Memory.read_writeFrom_below (s : Bits) (m : Memory) (a c : Nat) (h : c < a) :
    Memory.read (Memory.writeFrom m a s) c = Memory.read m c := by
  induction s generalizing m a with
  | nil => rfl
  | cons b bs ih =>
    simp only [Memory.writeFrom]
    rw [ih _ _ (by omega), Memory.read_write_other _ _ _ _ (by omega)]

/-- After MemWrite a cell reads as the sequence says inside it, and as before outside. -/
theorem Memory.read_writeFrom (s : Bits) (m : Memory) (a c : Nat) :
    Memory.read (Memory.writeFrom m a s) c =
      if a ≤ c ∧ c < a + s.length then s[c - a]? else Memory.read m c := by
  induction s generalizing m a with
  | nil => simp [Memory.writeFrom]
  | cons b bs ih =>
    simp only [Memory.writeFrom]
    rcases Nat.lt_trichotomy c a with h | h | h
    · rw [Memory.read_writeFrom_below _ _ _ _ (by omega), Memory.read_write_other _ _ _ _ (by omega)]
      simp; omega
    · subst h
      rw [Memory.read_writeFrom_below _ _ _ _ (by omega), Memory.read_write_same]
      simp
    · rw [ih, Memory.read_write_other _ _ _ _ (by omega)]
      obtain ⟨d, rfl⟩ : ∃ d, c = a + 1 + d := ⟨c - (a + 1), by omega⟩
      simp only [List.length_cons]
      by_cases hd : d < bs.length
      · rw [if_pos (by omega), if_pos (by omega)]
        rw [show a + 1 + d - (a + 1) = d by omega, show a + 1 + d - a = d + 1 by omega]
        simp
      · rw [if_neg (by omega), if_neg (by omega)]

/-- A FIFO read answers a next state only of a cell that exists, with that cell's bit. -/
theorem Session.withCell_next {u : Nat → Bool} {x y : Session} {a : Nat}
    {k : Bool → Host.Outcome Session Fault Refusal} (h : x.withCell u a k = .next y) :
    a < Config.fifoDepth ∧ k (x.cellValue u a) = .next y := by
  unfold Session.withCell at h
  split at h
  · exact ⟨‹_›, h⟩
  · cases h

/-- A cell below `wp` that holds a value reads as it. -/
theorem Session.cellValue_defined {u : Nat → Bool} {x : Session} {a : Nat} {b : Bool}
    (h : a < x.wp) (hb : Memory.read x.fmem a = some b) : x.cellValue u a = b := by
  simp [Session.cellValue, h, hb]

/-! ## transmit -/

/-- All that `transmit` can do (41_engine.md R82). -/
theorem Session.transmit_next {x y : Session} {id : Tag} {s : Bits} (h : x.transmit id s = .next y) :
    1 ≤ s.length ∧ s.length ≤ Config.fifoDepth ∧
      ((x.busy = true ∧ y = x.defer id s) ∨
        (x.busy = false ∧ ∃ b bs, s = b :: bs ∧ y = x.accept id b bs)) := by
  cases s with
  | nil => cases h
  | cons b bs =>
    simp only [Session.transmit] at h
    split at h
    · cases h
    · rename_i hl
      refine ⟨by simp, by omega, ?_⟩
      split at h
      · rename_i hb
        exact .inl ⟨hb, by simpa using h.symm⟩
      · rename_i hb
        exact .inr ⟨by simpa using hb, b, bs, rfl, by simpa using h.symm⟩

/-- A busy engine defers (41_engine.md R84). -/
theorem Session.transmit_busy (x : Session) (id : Tag) (b : Bool) (bs : Bits)
    (hl : (b :: bs).length ≤ Config.fifoDepth) (hb : x.busy = true) :
    x.transmit id (b :: bs) = .next (x.defer id (b :: bs)) := by
  simp only [Session.transmit, if_neg (Nat.not_lt.mpr hl), hb, if_true]

/-- An engine that is not busy accepts (41_engine.md R83). -/
theorem Session.transmit_idle (x : Session) (id : Tag) (b : Bool) (bs : Bits)
    (hl : (b :: bs).length ≤ Config.fifoDepth) (hb : x.busy = false) :
    x.transmit id (b :: bs) = .next (x.accept id b bs) := by
  simp only [Session.transmit, if_neg (Nat.not_lt.mpr hl), hb, Bool.false_eq_true, if_false]

/-- `transmit` reads no FIFO cell, so it never faults (41_engine.md R82). -/
theorem Session.transmit_ne_fault (x : Session) (id : Tag) (s : Bits) (r : Fault) : x.transmit id s ≠ .fault r := by
  unfold Session.transmit
  split
  · simp
  · split
    · simp
    · split <;> simp

/-! ## Instances -/

/-- A step of the present instance is what it does to that instance. -/
theorem State.onCur_of_cur {s : State} {x : Session} (h : s.cur = some x)
    (f : Session → Host.Outcome Session Fault Refusal) :
    s.onCur f = match f x with
      | .next y => .next (s.setCur y)
      | .fault r => .fault r
      | .refused r => .refused r := by
  cases hf : f x <;> simp only [State.onCur, h, hf]

/-- All that a step of the present instance can do (10_state.md R34). -/
theorem State.onCur_next {s t : State} {f : Session → Host.Outcome Session Fault Refusal}
    (h : s.onCur f = .next t) : ∃ x y, s.cur = some x ∧ f x = .next y ∧ t = s.setCur y := by
  unfold State.onCur at h
  split at h
  · cases h
  · rename_i x hx
    split at h
    · rename_i y hy
      exact ⟨x, y, hx, hy, by simpa using h.symm⟩
    · cases h
    · cases h

/-- All that delivering a value does. -/
theorem State.deliver_next {s t : State} {r : Ret} (h : s.deliver r = .next t) : t = { s with ret := r } := by
  simpa [State.deliver] using h.symm

/-! ## The encoder -/

/-- A valid index (30_encoding.md R56, R57). -/
theorem validIndex_of_fin (i : Fin 16) : validIndex (i.val : Int) = some i := by
  have hi := i.isLt
  have : (0 : Int) ≤ (i.val : Int) ∧ (i.val : Int) ≤ 15 := by omega
  simp only [validIndex, this, and_self, if_true, Option.some.injEq]
  apply Fin.ext
  simp [Fin.ofNat, Nat.mod_eq_of_lt hi]

/-- An index outside 0 to 15 is not valid. -/
theorem validIndex_none {n : Int} (h : n < 0 ∨ 15 < n) : validIndex n = none := by
  have : ¬ ((0 : Int) ≤ n ∧ n ≤ 15) := by omega
  simp [validIndex, this]

theorem headerRom_length : headerRom.length = 16 := by simp [headerRom, Config.headerBits]

theorem footerRom_length : footerRom.length = 8 := by simp [footerRom, Config.footerBits]

theorem houseRom_length (h : Fin 16) : (houseRom h).length = 5 := by
  unfold houseRom; split <;> simp [Config.houseBits]

theorem moduleRom_length (m : Fin 16) : (moduleRom m).length = 11 := by
  unfold moduleRom; split <;> simp [Config.moduleBits]

theorem polarity_length (c : Bits) (o : Bool) : (polarity c o).length = c.length := by
  unfold polarity; split <;> simp [setBit]

/-- ENCODE on valid indices (40_encoder.md R75). -/
theorem encodeFrame_valid (h m : Fin 16) (o : Bool) :
    encodeFrame h.val m.val o =
      .ok (assembleFrame headerRom (houseRom h) (polarity (moduleRom m) o) footerRom) := by
  simp [encodeFrame, houseCode, modpol, moduleCode, validIndex_of_fin]

/-- Every Frame has 40 bits (30_encoding.md R55). -/
theorem encodeFrame_length {h m : Int} {o : Bool} {f : Bits} (hf : encodeFrame h m o = .ok f) :
    f.length = 40 := by
  unfold encodeFrame houseCode modpol moduleCode at hf
  split at hf
  · cases hf
  · rename_i hh
    split at hf
    · cases hf
    · rename_i hm
      split at hh
      · cases hh
      · split at hm
        · cases hm
        · rename_i hm2
          split at hm2
          · cases hm2
          · cases hh; cases hm2; cases hm; cases hf
            simp [assembleFrame, polarity_length, headerRom_length, houseRom_length, moduleRom_length,
              footerRom_length]

end Sys2Proof.Machine
end

