-- ==== Sys2Proof/Laws/Steps.lean ====
section
/-! SUPPORT. Laws/Steps.lean: for each operation of one session, all that it can do when it answers a next state; and
`exec` as one of two shapes, so that a proof over all operations is a proof over sessions. -/

namespace Sys2Proof.Machine

/-- What an operation does to the session it belongs to; none for the encoder functions and symbols, which belong to
no session. -/
def sessionMeaning (u : Nat → Bool) : Instr → Option (Session → Host.Outcome Session Fault Refusal)
  | .create => some fun _ => .next Session.reset
  | .send id h m o => some fun x => x.send id h m o
  | .openSession id ep => some fun x => x.openAt id ep
  | .closeSession id => some fun x => x.close id
  | .listPorts id => some fun x => x.list id
  | .housecode _ => none
  | .modulecode _ => none
  | .encodeCommand _ _ _ => none
  | .frameOn _ _ => none
  | .frameOff _ _ => none
  | .xmit id b => some fun x => x.xmit id b
  | .symOne => none
  | .symZero => none
  | .symSync => none
  | .ackOk => some (Session.ackOk u)
  | .ackFail e => some fun x => x.ackFail e
  | .tick => some Session.tick
  | .expireBit => some Session.expireBit
  | .expireSync => some (Session.expireSync u)
  | .retry w => some fun x => x.retry w
  | .topenOk => some Session.topenOk
  | .topenFail e => some fun x => x.topenFail e
  | .tcloseOk => some Session.tcloseOk
  | .tcloseFail e => some fun x => x.tcloseFail e
  | .warmdone => some Session.warmdone
  | .tlistOk id l => some fun x => x.tlistOk id l
  | .tlistFail id e => some fun x => x.tlistFail id e

/-- The value an operation that belongs to no session delivers. -/
def deliveredValue : Instr → Ret
  | .housecode h => Ret.ofEncoder (houseCode h)
  | .modulecode m => Ret.ofEncoder (moduleCode m)
  | .encodeCommand h m o => Ret.ofEncoder (encodeFrame h m o)
  | .frameOn h m => Ret.ofEncoder (encodeFrame h m true)
  | .frameOff h m => Ret.ofEncoder (encodeFrame h m false)
  | .symOne => .symbol (sym true)
  | .symZero => .symbol (sym false)
  | .symSync => .symbol syncSymbol
  | _ => .nothing

/-- `exec` is a step of the present instance or the delivery of a value. -/
theorem exec_shape (i : Instr) (s : State) :
    exec i s = match sessionMeaning s.undefinedCells i with
      | some f => s.onCur f
      | none => s.deliver (deliveredValue i) := by
  cases i <;> rfl

/-- All that `exec` can do when it answers a next state. -/
theorem exec_next {i : Instr} {s t : State} (h : exec i s = .next t) :
    (sessionMeaning s.undefinedCells i = none ∧ t = { s with ret := deliveredValue i }) ∨
      ∃ f x y, sessionMeaning s.undefinedCells i = some f ∧ s.cur = some x ∧ f x = .next y ∧ t = s.setCur y := by
  rw [exec_shape] at h
  split at h
  · rename_i f hf
    obtain ⟨x, y, hx, hy, ht⟩ := State.onCur_next h
    exact .inr ⟨f, x, y, hf, hx, hy, ht⟩
  · rename_i hf
    exact .inl ⟨hf, State.deliver_next h⟩

/-! ## The engine -/

theorem Session.lineSetOutstanding_iff (x : Session) :
    x.lineSetOutstanding = true ↔ x.busy = true ∧ x.sub = .waitAck := by
  simp [Session.lineSetOutstanding]

theorem Session.connected_iff (x : Session) : x.connected = true ↔ ∃ ep, x.conn = .openAt ep := by
  unfold Session.connected; split <;> simp_all

theorem Session.expiryDue_iff (x : Session) : x.expiryDue = true ↔ x.sub = .hold ∧ x.tmr = 0 := by
  simp [Session.expiryDue]

theorem Session.warming_iff (x : Session) : x.warming = true ↔ ∃ id, x.sop = .warmup id := by
  unfold Session.warming; split <;> simp_all

theorem Session.urgent_iff (x : Session) :
    x.urgent = true ↔ (x.sub = .hold ∧ x.tmr = 0) ∨ (∃ w ∈ x.waiters, w.bko = 0) ∨
      ∃ id, x.sop = .warmup id ∧ x.wtmr = 0 := by
  simp [Session.urgent, Session.expiryDue, Session.retryDue, Session.warmupDue, Session.warming_iff, or_assoc]

theorem Session.openInProgress_false_iff (x : Session) :
    x.openInProgress = false ↔ x.sop = .idle ∨ ∃ id, x.sop = .closeWait id .done := by
  unfold Session.openInProgress; split <;> simp_all

/-- XMIT (41_engine.md R82). -/
theorem Session.xmit_next {x y : Session} {id : Tag} {s : Bits} (h : x.xmit id s = .next y) :
    x.transmit id s = .next y ∧ (x.busy = true → x.hasRoom = true) := by
  unfold Session.xmit at h
  split at h
  · cases h
  · rename_i hc
    obtain ⟨h1, h2, -⟩ := Session.transmit_next h
    refine ⟨h, fun hb => ?_⟩
    simp only [Bool.and_eq_true, Bool.not_eq_true', not_and, Bool.not_eq_false] at hc
    exact hc ⟨by simp [lengthFits, h1, h2], hb⟩

/-- ACK.OK (41_engine.md R85). -/
theorem Session.ackOk_next {u : Nat → Bool} {x y : Session} (h : x.ackOk u = .next y) :
    x.busy = true ∧ x.sub = .waitAck ∧ (∃ ep, x.conn = .openAt ep) ∧
      ∃ l, y = Session.record { x with lineQ := some l, tmr := Config.bitTicks, sub := .hold } .ackOk ∧
        ((x.phase = .sendingBit ∧ x.rp < Config.fifoDepth ∧ l = sym (x.cellValue u x.rp)) ∨
          (x.phase ≠ .sendingBit ∧ l = syncSymbol)) := by
  unfold Session.ackOk at h
  split at h
  · cases h
  · rename_i h1
    simp only [Bool.not_eq_true', Bool.not_eq_false, Session.lineSetOutstanding_iff] at h1
    split at h
    · cases h
    · rename_i h2
      simp only [Bool.not_eq_true', Bool.not_eq_false, Session.connected_iff] at h2
      refine ⟨h1.1, h1.2, h2, ?_⟩
      split at h
      · rename_i h3
        obtain ⟨h4, h5⟩ := Session.withCell_next h
        exact ⟨_, by simpa using h5.symm, .inl ⟨h3, h4, rfl⟩⟩
      · rename_i h3
        exact ⟨_, by simpa using h.symm, .inr ⟨h3, rfl⟩⟩

/-- ACK.FAIL (41_engine.md R89). -/
theorem Session.ackFail_next {x y : Session} {e : TransportError} (h : x.ackFail e = .next y) :
    x.busy = true ∧ x.sub = .waitAck ∧
      y = Session.reportOwner (Session.record { x.release .failed with tmr := 0, lineQ := none } (.ackFail e))
        x.owner .transportSetLinesFailure (.error e) := by
  unfold Session.ackFail at h
  split at h
  · cases h
  · rename_i h1
    simp only [Bool.not_eq_true', Bool.not_eq_false, Session.lineSetOutstanding_iff] at h1
    exact ⟨h1.1, h1.2, by simpa using h.symm⟩

/-- TICK (41_engine.md R86, R91). -/
theorem Session.tick_next {x y : Session} (h : x.tick = .next y) :
    x.urgent = false ∧
      y = { x with
        tmr := if x.sub = .hold then x.tmr - 1 else x.tmr
        waiters := x.waiters.map fun w => { w with bko := w.bko - 1 }
        wtmr := if x.warming then x.wtmr - 1 else x.wtmr
        ticks := x.ticks + 1 } := by
  unfold Session.tick at h
  split at h
  · cases h
  · rename_i h1
    exact ⟨by simpa using h1, by simpa using h.symm⟩

/-- EXPIRE.BIT (41_engine.md R87). -/
theorem Session.expireBit_next {x y : Session} (h : x.expireBit = .next y) :
    x.phase = .sendingBit ∧ x.sub = .hold ∧ x.tmr = 0 ∧
      y = Session.record { x with phase := .synchronizing, sub := .waitAck } (.lineSet syncSymbol) := by
  unfold Session.expireBit at h
  split at h
  · cases h
  · rename_i h1
    simp only [Session.bitExpiryDue, Session.expiryDue, Bool.not_eq_true', Bool.not_eq_false,
      Bool.and_eq_true, decide_eq_true_eq] at h1
    exact ⟨h1.1, h1.2.1, h1.2.2, by simpa using h.symm⟩

/-- EXPIRE.SYNC (41_engine.md R88). -/
theorem Session.expireSync_next {u : Nat → Bool} {x y : Session} (h : x.expireSync u = .next y) :
    x.phase = .synchronizing ∧ x.sub = .hold ∧ x.tmr = 0 ∧
      ((x.rp + 1 < x.wp ∧ x.rp + 1 < Config.fifoDepth ∧
          y = Session.record { x with rp := x.rp + 1, phase := .sendingBit, sub := .waitAck }
            (.lineSet (sym (x.cellValue u (x.rp + 1))))) ∨
        (¬ x.rp + 1 < x.wp ∧ y = Session.reportOwner (x.release .idle) x.owner .ok .nothing)) := by
  unfold Session.expireSync at h
  split at h
  · cases h
  · rename_i h1
    simp only [Session.syncExpiryDue, Session.expiryDue, Bool.not_eq_true', Bool.not_eq_false,
      Bool.and_eq_true, decide_eq_true_eq] at h1
    refine ⟨h1.1, h1.2.1, h1.2.2, ?_⟩
    split at h
    · rename_i h2
      obtain ⟨h3, h4⟩ := Session.withCell_next h
      exact .inl ⟨h2, h3, by simpa using h4.symm⟩
    · rename_i h2
      exact .inr ⟨h2, by simpa using h.symm⟩

/-- RETRY (41_engine.md R90). -/
theorem Session.retry_next {x y : Session} {w : Waiter} (h : x.retry w = .next y) :
    w ∈ x.waiters ∧ w.bko = 0 ∧
      Session.transmit { x with waiters := x.waiters.erase w } w.id w.bits = .next y := by
  unfold Session.retry at h
  split at h
  · rename_i h1
    exact ⟨h1.1, h1.2, h⟩
  · cases h

/-! ## The session -/

/-- SEND (42_session.md R107). -/
theorem Session.send_next {x y : Session} {id : Tag} {h m : Int} {o : Bool} (hs : x.send id h m o = .next y) :
    x.openInProgress = false ∧
      ((∃ e, encodeFrame h m o = .error e ∧ y = x.raise id e.status e.info) ∨
        ∃ f, encodeFrame h m o = .ok f ∧ (x.busy = true → x.hasRoom = true) ∧ x.transmit id f = .next y) := by
  unfold Session.send at hs
  split at hs
  · cases hs
  · rename_i h1
    refine ⟨by simpa using h1, ?_⟩
    split at hs
    · rename_i e he
      exact .inl ⟨e, he, by simpa using hs.symm⟩
    · rename_i f hf
      split at hs
      · cases hs
      · rename_i h2
        exact .inr ⟨f, hf, by simpa using h2, hs⟩

/-- OPEN (42_session.md R113). -/
theorem Session.openAt_next {x y : Session} {id : Tag} {ep : Endpoint} (h : x.openAt id ep = .next y) :
    x.sop = .idle ∧ x.busy = false ∧ x.waiters = [] ∧
      ((x.conn = .closed ∧ y = Session.record { x with sop := .openWait id ep } (.topenReq ep)) ∨
        ((∃ e, x.conn = .openAt e) ∧
          y = Session.record { x with sop := .closeWait id (.thenOpen ep) } .tcloseReq)) := by
  unfold Session.openAt at h
  split at h
  · cases h
  · rename_i h1
    split at h
    · cases h
    · rename_i h2
      simp only [Bool.or_eq_true, Bool.not_eq_true', List.isEmpty_eq_false_iff, not_or, Bool.not_eq_true,
        ne_eq, not_not] at h1 h2
      refine ⟨h1, h2.1, h2.2, ?_⟩
      split at h
      · exact .inl ⟨‹_›, by simpa using h.symm⟩
      · exact .inr ⟨⟨_, ‹_›⟩, by simpa using h.symm⟩

/-- CLOSE (42_session.md R110). -/
theorem Session.close_next {x y : Session} {id : Tag} (h : x.close id = .next y) :
    x.sop = .idle ∧
      ((x.conn = .closed ∧ y = x.succeed id .nothing) ∨
        ((∃ e, x.conn = .openAt e) ∧ y = Session.record { x with sop := .closeWait id .done } .tcloseReq)) := by
  unfold Session.close at h
  split at h
  · cases h
  · rename_i h1
    refine ⟨by simpa using h1, ?_⟩
    split at h
    · exact .inl ⟨‹_›, by simpa using h.symm⟩
    · exact .inr ⟨⟨_, ‹_›⟩, by simpa using h.symm⟩

/-- LIST (42_session.md R119). -/
theorem Session.list_next {x y : Session} {id : Tag} (h : x.list id = .next y) :
    y = Session.record { x with lpend := x.lpend ++ [id] } (.tlistReq id) := by
  simpa [Session.list] using h.symm

/-- TOPEN.OK (42_session.md R114). -/
theorem Session.topenOk_next {x y : Session} (h : x.topenOk = .next y) :
    ∃ id ep, x.sop = .openWait id ep ∧
      y = Session.record { x with conn := .openAt ep, sop := .warmup id, wtmr := Config.warmupTicks } .topenOk := by
  unfold Session.topenOk at h
  split at h
  · exact ⟨_, _, ‹_›, by simpa using h.symm⟩
  · cases h

/-- TOPEN.FAIL (42_session.md R115). -/
theorem Session.topenFail_next {x y : Session} {e : TransportError} (h : x.topenFail e = .next y) :
    ∃ id ep, x.sop = .openWait id ep ∧
      y = (Session.record { x with sop := .idle } (.topenFail e)).raise id .transportOpenFailure (.error e) := by
  unfold Session.topenFail at h
  split at h
  · exact ⟨_, _, ‹_›, by simpa using h.symm⟩
  · cases h

/-- TCLOSE.OK (42_session.md R111). -/
theorem Session.tcloseOk_next {x y : Session} (h : x.tcloseOk = .next y) :
    (∃ id, x.sop = .closeWait id .done ∧
        y = (Session.record { x with conn := .closed, sop := .idle } .tcloseOk).succeed id .nothing) ∨
      ∃ id ep, x.sop = .closeWait id (.thenOpen ep) ∧
        y = (Session.record { x with conn := .closed, sop := .openWait id ep } .tcloseOk).record (.topenReq ep) := by
  unfold Session.tcloseOk at h
  split at h
  · exact .inl ⟨_, ‹_›, by simpa using h.symm⟩
  · exact .inr ⟨_, _, ‹_›, by simpa using h.symm⟩
  · cases h

/-- TCLOSE.FAIL (42_session.md R112). -/
theorem Session.tcloseFail_next {x y : Session} {e : TransportError} (h : x.tcloseFail e = .next y) :
    ∃ id next, x.sop = .closeWait id next ∧
      y = (Session.record { x with sop := .idle } (.tcloseFail e)).raise id .transportCloseFailure (.error e) := by
  unfold Session.tcloseFail at h
  split at h
  · exact ⟨_, _, ‹_›, by simpa using h.symm⟩
  · cases h

/-- WARMDONE (42_session.md R116). -/
theorem Session.warmdone_next {x y : Session} (h : x.warmdone = .next y) :
    ∃ id, x.sop = .warmup id ∧ x.wtmr = 0 ∧ y = Session.succeed { x with sop := .idle } id .nothing := by
  unfold Session.warmdone at h
  split at h
  · rename_i id hid
    split at h
    · exact ⟨id, hid, ‹_›, by simpa using h.symm⟩
    · cases h
  · cases h

/-- TLIST.OK (42_session.md R120). -/
theorem Session.tlistOk_next {x y : Session} {id : Tag} {l : List PortRecord} (h : x.tlistOk id l = .next y) :
    id ∈ x.lpend ∧
      y = (Session.record { x with lpend := x.lpend.erase id } (.tlistOk id l)).succeed id (.ports l) := by
  unfold Session.tlistOk at h
  split at h
  · exact ⟨‹_›, by simpa using h.symm⟩
  · cases h

/-- TLIST.FAIL (42_session.md R120). -/
theorem Session.tlistFail_next {x y : Session} {id : Tag} {e : TransportError} (h : x.tlistFail id e = .next y) :
    id ∈ x.lpend ∧
      y = (Session.record { x with lpend := x.lpend.erase id } (.tlistFail id e)).raise id
        .transportEnumerateFailure (.error e) := by
  unfold Session.tlistFail at h
  split at h
  · exact ⟨‹_›, by simpa using h.symm⟩
  · cases h

end Sys2Proof.Machine
end

