-- ==== Sys2Proof/Certificates/Slice0/Obligations.lean ====
section
/-! DEFINITION. Certificates/Slice0/Obligations.lean: the statements for the provers. `s.cur = some x` says that `x` is
the session instance the step belongs to; `s.setCur y` is `s` with that instance, and nothing else, replaced. An
equation `exec i s = .next (s.setCur (x with some elements written))` therefore says the completion, the result and the
frame of `i` at once: every element not written, every FIFO cell, every other instance is unchanged. -/

open Sys2Proof Sys2Proof.Machine

/-! ## Reset -/

/-- 42_session.md R106: CREATE sets every element to its reset value, in whatever state the instance is, and emits
nothing. That the tick count of the history starts again at 0 is the model's choice (log 13). -/
def Obligations.CreateSetsEveryElementToReset : Prop :=
  ∀ (s : State) (x : Session), s.cur = some x →
    exec .create s = .next (s.setCur
      { phase := .idle, sub := .waitAck, busy := false, fmem := [], wp := 0, rp := 0, tmr := 0, owner := none,
        lineQ := none, waiters := [], conn := .closed, sop := .idle, wtmr := 0, lpend := [], hist := [], ticks := 0 })

/-- 10_state.md R33, R34: after reset there are N_SESSIONS instances, at least one, each at its reset values. That no
step is chosen yet is the model's (log 1). -/
def Obligations.ResetHoldsEveryInstanceAtItsResetValues : Prop :=
  State.reset.sessions.length = Config.nSessions ∧ 1 ≤ Config.nSessions ∧
    ∀ x ∈ State.reset.sessions,
      x.phase = .idle ∧ x.sub = .waitAck ∧ x.busy = false ∧ (∀ a, Memory.read x.fmem a = none) ∧ x.wp = 0 ∧
        x.rp = 0 ∧ x.tmr = 0 ∧ x.owner = none ∧ x.lineQ = none ∧ x.waiters = [] ∧ x.conn = .closed ∧
        x.sop = .idle ∧ x.wtmr = 0 ∧ x.lpend = [] ∧ x.hist = []

/-! ## Encoder -/

/-- 40_encoder.md R71, R72: HOUSECODE gives the five bits of the entry for 0 to 15, house A's as the source has it, and
fails with InvalidHouse exactly outside; MODULECODE likewise, eleven bits, module 01's all zeros. Nothing but the
delivered value changes (that there is a delivered value is the model's, log 3). -/
def Obligations.CodeTablesLookUpOrFail : Prop :=
  ∀ s : State,
    (∀ h : Fin 16, exec (.housecode h.val) s = .next { s with ret := .bits (houseRom h) }) ∧
    (∀ h : Int, h < 0 ∨ 15 < h → exec (.housecode h) s = .next { s with ret := .raised (.invalidHouse h) }) ∧
    (∀ m : Fin 16, exec (.modulecode m.val) s = .next { s with ret := .bits (moduleRom m) }) ∧
    (∀ m : Int, m < 0 ∨ 15 < m → exec (.modulecode m) s = .next { s with ret := .raised (.invalidModule m) }) ∧
    houseRom 0 = [false, true, true, false, false] ∧ (∀ h : Fin 16, (houseRom h).length = 5) ∧
    moduleRom 0 = [false, false, false, false, false, false, false, false, false, false, false] ∧
    (∀ m : Fin 16, (moduleRom m).length = 11)

/-- 40_encoder.md R73 to R75: ENCODE concatenates the four segments, position 10 of the module segment forced to 1 for
off; an invalid house is reported whatever the module is, an invalid module where the house is valid. -/
def Obligations.EncodeConcatenatesOrFails : Prop :=
  ∀ (s : State) (o : Bool),
    (∀ h m : Fin 16, exec (.encodeCommand h.val m.val o) s = .next { s with
      ret := .bits (headerRom ++ houseRom h ++ (if o then moduleRom m else (moduleRom m).set 10 true) ++ footerRom) }) ∧
    (∀ h m : Int, h < 0 ∨ 15 < h →
      exec (.encodeCommand h m o) s = .next { s with ret := .raised (.invalidHouse h) }) ∧
    (∀ (h : Fin 16) (m : Int), m < 0 ∨ 15 < m →
      exec (.encodeCommand h.val m o) s = .next { s with ret := .raised (.invalidModule m) })

/-- 30_encoding.md R54, 40_encoder.md R71 to R75: FRAME.ON and FRAME.OFF are the two shapes of ENCODE's result, for on
and for off, whatever the indices are; off has a 1 at frame index 31, on has what the table stores there, and they agree
everywhere else; on an invalid index both fail as ENCODE does. That the frame is a delivered value is the model's
(log 3). -/
def Obligations.FrameShapesDifferAtMostAtIndex31 : Prop :=
  ∀ s : State,
    (∀ h m : Int, exec (.frameOn h m) s = exec (.encodeCommand h m true) s ∧
      exec (.frameOff h m) s = exec (.encodeCommand h m false) s) ∧
    (∀ h m : Fin 16, ∃ on off : Bits,
      exec (.frameOn h.val m.val) s = .next { s with ret := .bits on } ∧
      exec (.frameOff h.val m.val) s = .next { s with ret := .bits off } ∧
      on.length = 40 ∧ off.length = 40 ∧ off[31]? = some true ∧ on[31]? = (moduleRom m)[10]? ∧
      ∀ i, i ≠ 31 → on[i]? = off[i]?) ∧
    (∀ h m : Int, h < 0 ∨ 15 < h →
      exec (.frameOn h m) s = .next { s with ret := .raised (.invalidHouse h) } ∧
      exec (.frameOff h m) s = .next { s with ret := .raised (.invalidHouse h) }) ∧
    (∀ (h : Fin 16) (m : Int), m < 0 ∨ 15 < m →
      exec (.frameOn h.val m) s = .next { s with ret := .raised (.invalidModule m) } ∧
      exec (.frameOff h.val m) s = .next { s with ret := .raised (.invalidModule m) })

/-- 40_encoder.md R76, R77, 20_memory.md R46: the map of a Frame, index by index. -/
def Obligations.FrameMapIndexByIndex : Prop :=
  ∀ (h m : Fin 16) (o : Bool), ∃ f : Bits, encodeFrame h.val m.val o = .ok f ∧ f.length = 40 ∧
    (∀ i, i < 16 → f[i]? = some (Config.headerBit i)) ∧
    (∀ i, i < 5 → f[16 + i]? = (houseRom h)[i]?) ∧
    (∀ i, i < 10 → f[21 + i]? = (moduleRom m)[i]?) ∧
    (f[31]? = if o then (moduleRom m)[10]? else some true) ∧
    (∀ i, i < 8 → f[32 + i]? = some (Config.footerBit i))

/-- 30_encoding.md R70: under the three conditions on the tables the source does not state, a Frame gives back its
house, its module and on or off. The tables are any tables of the right widths. -/
def Obligations.FrameReadBackUnderTableConditions : Prop :=
  ∀ (header footer : Bits) (house module : Fin 16 → Bits),
    (∀ h, (house h).length = 5) → (∀ m, (module m).length = 11) →
    Function.Injective house → Function.Injective module → (∀ m, (module m)[10]? = some false) →
    ∀ (h h' m m' : Fin 16) (o o' : Bool),
      assembleFrame header (house h) (polarity (module m) o) footer =
        assembleFrame header (house h') (polarity (module m') o') footer →
      h = h' ∧ m = m' ∧ o = o'

/-- 30_encoding.md R58: the three symbols, for either value of ONE_LINE; the value is delivered and nothing else changes
(that there is a delivered value is the model's, log 3). -/
def Obligations.LineSymbolsCarryTheirPatterns : Prop :=
  ∀ s : State,
    exec .symOne s = .next { s with ret := .symbol (match Config.oneLine with
      | .rts => ⟨true, false⟩
      | .dtr => ⟨false, true⟩) } ∧
    exec .symZero s = .next { s with ret := .symbol (match Config.oneLine with
      | .rts => ⟨false, true⟩
      | .dtr => ⟨true, false⟩) } ∧
    exec .symSync s = .next { s with ret := .symbol ⟨true, true⟩ }

/-! ## Engine -/

/-- 41_engine.md R82, R83: an engine that is not busy accepts, from IDLE or FAILED alike: flag, owner, FIFO, pointers,
phase, and the first LineSet, in one step. -/
def Obligations.XmitAcceptsWhenNotBusy : Prop :=
  ∀ (s : State) (x : Session) (id : Tag) (b : Bool) (bs : Bits), s.cur = some x → x.busy = false →
    (b :: bs).length ≤ 40 →
    exec (.xmit id (b :: bs)) s = .next (s.setCur { x with
      busy := true
      owner := some id
      fmem := Memory.writeFrom x.fmem 0 (b :: bs)
      wp := bs.length + 1
      rp := 0
      phase := .sendingBit
      sub := .waitAck
      tmr := 0
      hist := x.hist ++ [⟨x.ticks, .lineSet (sym b)⟩] })

/-- 41_engine.md R83, 20_memory.md R43: the cells an accept stores to are those below the length of the sequence, cell
`a` getting element `a`; every other cell reads as before. -/
def Obligations.AcceptStoresTheSequenceAndNothingElse : Prop :=
  ∀ (s t : State) (x y : Session) (id : Tag) (b : Bits), s.cur = some x → x.busy = false →
    exec (.xmit id b) s = .next t → t.cur = some y →
    (∀ a, a < b.length → Memory.read y.fmem a = b[a]?) ∧
    (∀ a, b.length ≤ a → Memory.read y.fmem a = Memory.read x.fmem a)

/-- 41_engine.md R84: a busy engine defers, with a full backoff and no event, where there is room for a waiter; where a
bounded pool is full the step is not enabled (refused by name, log 4). That the new waiter stands at the end of a list,
where the spec has a multiset, is the model's choice (log 15). -/
def Obligations.XmitDefersWhenBusy : Prop :=
  ∀ (s : State) (x : Session) (id : Tag) (b : Bits), s.cur = some x → x.busy = true →
    1 ≤ b.length → b.length ≤ 40 →
    exec (.xmit id b) s =
      if x.hasRoom then .next (s.setCur { x with waiters := x.waiters ++ [⟨id, b, 1000 * Config.bitTicks⟩] })
      else .refused .heldOffAtPort

/-- 41_engine.md R100: `transmit` of a sequence of length 0 or above 40 has no meaning and is refused, called directly
or by a RETRY (no waiter has such a sequence, 10_state.md R32 (f)). -/
def Obligations.TransmitRefusesOtherLengths : Prop :=
  ∀ (s : State) (x : Session) (id : Tag) (b : Bits), s.cur = some x → b.length = 0 ∨ 40 < b.length →
    exec (.xmit id b) s = .refused .sequenceLength ∧
    ((⟨id, b, 0⟩ : Waiter) ∈ x.waiters → exec (.retry ⟨id, b, 0⟩) s = .refused .sequenceLength)

/-- 41_engine.md R85: the success answer records the symbol acknowledged, that of the bit at the read position in
SENDING_BIT and SYNC otherwise, and starts the hold of BIT_TICKS. -/
def Obligations.AckOkStartsTheHold : Prop :=
  ∀ (s : State) (x : Session) (ep : Endpoint), s.cur = some x → x.busy = true → x.sub = .waitAck →
    x.conn = .openAt ep →
    (∀ b, x.phase = .sendingBit → x.rp < x.wp → x.rp < 40 → Memory.read x.fmem x.rp = some b →
      exec .ackOk s = .next (s.setCur { x with
        lineQ := some (sym b), tmr := Config.bitTicks, sub := .hold, hist := x.hist ++ [⟨x.ticks, .ackOk⟩] })) ∧
    (x.phase ≠ .sendingBit →
      exec .ackOk s = .next (s.setCur { x with
        lineQ := some ⟨true, true⟩, tmr := Config.bitTicks, sub := .hold, hist := x.hist ++ [⟨x.ticks, .ackOk⟩] }))

/-- 41_engine.md R89: a failure answer, in either phase and with or without a connection, aborts the transmission: flag
cleared, FIFO emptied, line state unknown, one Complete to the owner; the waiters and the cells are not touched. That
the answer stands in the history before the Complete is the model's (log 17). -/
def Obligations.AckFailAbortsTheTransmission : Prop :=
  ∀ (s : State) (x : Session) (id : Tag) (e : TransportError), s.cur = some x → x.busy = true →
    x.sub = .waitAck → x.owner = some id →
    exec (.ackFail e) s = .next (s.setCur { x with
      busy := false
      phase := .failed
      sub := .waitAck
      tmr := 0
      rp := 0
      wp := 0
      lineQ := none
      owner := none
      hist := x.hist ++ [⟨x.ticks, .ackFail e⟩] ++
        [⟨x.ticks, .complete id .transportSetLinesFailure (.error e)⟩] })

/-- 41_engine.md R86: a tick decrements the hold timer while holding, every backoff, and the warm-up counter while
warming up, and nothing else but the tick count of the history. -/
def Obligations.TickDecrementsRunningCounters : Prop :=
  ∀ (s : State) (x : Session), s.cur = some x → (x.sub = .hold → 0 < x.tmr) → (∀ w ∈ x.waiters, 0 < w.bko) →
    (∀ id, x.sop = .warmup id → 0 < x.wtmr) →
    exec .tick s = .next (s.setCur { x with
      tmr := if x.sub = .hold then x.tmr - 1 else x.tmr
      waiters := x.waiters.map fun w => ⟨w.id, w.bits, w.bko - 1⟩
      wtmr := match x.sop with
        | .warmup _ => x.wtmr - 1
        | _ => x.wtmr
      ticks := x.ticks + 1 })

/-- 41_engine.md R91: TICK is enabled exactly where no expiry, retry or warm-up completion is. -/
def Obligations.TickYieldsToUrgentSteps : Prop :=
  ∀ (s : State) (x : Session), s.cur = some x →
    ((∃ t, exec .tick s = .next t) ↔
      ¬ (x.sub = .hold ∧ x.tmr = 0) ∧ (∀ w ∈ x.waiters, 0 < w.bko) ∧ ¬ ∃ id, x.sop = .warmup id ∧ x.wtmr = 0)

/-- 41_engine.md R87: the end of a bit's hold issues SYNC and moves to SYNCHRONIZING; the read position stays. -/
def Obligations.ExpireBitIssuesSync : Prop :=
  ∀ (s : State) (x : Session), s.cur = some x → x.phase = .sendingBit → x.sub = .hold → x.tmr = 0 →
    exec .expireBit s = .next (s.setCur { x with
      phase := .synchronizing
      sub := .waitAck
      hist := x.hist ++ [⟨x.ticks, .lineSet ⟨true, true⟩⟩] })

/-- 41_engine.md R88: the end of a SYNC's hold sends the next bit, or, the sequence exhausted, completes to the owner
and releases the engine. -/
def Obligations.ExpireSyncAdvancesOrCompletes : Prop :=
  ∀ (s : State) (x : Session), s.cur = some x → x.phase = .synchronizing → x.sub = .hold → x.tmr = 0 →
    (∀ b, x.rp + 1 < x.wp → x.rp + 1 < 40 → Memory.read x.fmem (x.rp + 1) = some b →
      exec .expireSync s = .next (s.setCur { x with
        rp := x.rp + 1
        phase := .sendingBit
        sub := .waitAck
        hist := x.hist ++ [⟨x.ticks, .lineSet (sym b)⟩] })) ∧
    (∀ id, ¬ x.rp + 1 < x.wp → x.owner = some id →
      exec .expireSync s = .next (s.setCur { x with
        busy := false
        phase := .idle
        sub := .waitAck
        rp := 0
        wp := 0
        owner := none
        hist := x.hist ++ [⟨x.ticks, .complete id .ok .nothing⟩] }))

/-- 41_engine.md R90: a waiter whose backoff has elapsed, any one of them, leaves the pool and is accepted, or, the
engine busy, deferred again with a full backoff. That the pool is a list, of which the first equal entry is taken out and
at whose end the deferred one is put, is the model's choice (log 15); that a RETRY does not test for room is the model's
reading of R84 (log 19). -/
def Obligations.RetryAcceptsOrDefersAgain : Prop :=
  ∀ (s : State) (x : Session) (id : Tag) (b : Bool) (bs : Bits), s.cur = some x →
    (⟨id, b :: bs, 0⟩ : Waiter) ∈ x.waiters → (b :: bs).length ≤ 40 →
    exec (.retry ⟨id, b :: bs, 0⟩) s = .next (s.setCur
      (if x.busy then
        { x with waiters := x.waiters.erase ⟨id, b :: bs, 0⟩ ++ [⟨id, b :: bs, 1000 * Config.bitTicks⟩] }
      else
        { x with
          waiters := x.waiters.erase ⟨id, b :: bs, 0⟩
          busy := true
          owner := some id
          fmem := Memory.writeFrom x.fmem 0 (b :: bs)
          wp := bs.length + 1
          rp := 0
          phase := .sendingBit
          sub := .waitAck
          tmr := 0
          hist := x.hist ++ [⟨x.ticks, .lineSet (sym b)⟩] }))

/-- 10_state.md R17, R32, 20_memory.md R42: from a state of the invariants no operation reads a FIFO cell that does not
exist or holds no defined value: none faults, and none depends on the number of the step, which is all that the free
values of undefined cells depend on beside the address (log 6). And every transmission in flight that ends, but by CREATE,
is reported to its owner, with the status of the step that ends it (so the model's choice for no owner, log 11, is never
met). -/
def Obligations.NothingUndefinedIsReadAndEveryEndIsReported : Prop :=
  ∀ (i : Instr) (s : State) (x : Session), s.cur = some x → x.Inv →
    (∀ r, exec i s ≠ .fault r) ∧
    (∀ n t, exec i s = .next t → exec i { s with steps := n } = .next { t with steps := n }) ∧
    (∀ n r, exec i s = .refused r → exec i { s with steps := n } = .refused r) ∧
    (∀ t y, exec i s = .next t → t.cur = some y → x.busy = true → y.busy = false → i ≠ .create →
      ∃ id new, x.owner = some id ∧ y.hist = x.hist ++ new ∧
        ((i = .expireSync ∧ ⟨x.ticks, .complete id .ok .nothing⟩ ∈ new) ∨
          ∃ e, i = .ackFail e ∧ ⟨x.ticks, .complete id .transportSetLinesFailure (.error e)⟩ ∈ new))

/-! ## Session -/

/-- 42_session.md R107 on a valid command and an engine that is not busy: the Frame of the command is loaded whole and
the symbol of HEADER[0] is issued, in one step, with or without a connection (R108). -/
def Obligations.SendLoadsTheFrameOfTheCommand : Prop :=
  ∀ (s : State) (x : Session) (id : Tag) (h m : Fin 16) (o : Bool), s.cur = some x →
    (x.sop = .idle ∨ ∃ c, x.sop = .closeWait c .done) → x.busy = false →
    exec (.send id h.val m.val o) s = .next (s.setCur { x with
      busy := true
      owner := some id
      fmem := Memory.writeFrom x.fmem 0
        (headerRom ++ houseRom h ++ (if o then moduleRom m else (moduleRom m).set 10 true) ++ footerRom)
      wp := 40
      rp := 0
      phase := .sendingBit
      sub := .waitAck
      tmr := 0
      hist := x.hist ++ [⟨x.ticks, .lineSet (sym (Config.headerBit 0))⟩] })

/-- 42_session.md R107, 41_engine.md R84: a valid command on a busy engine is deferred, already encoded; the pool full,
the step is not enabled (refused by name, log 4). That the new waiter stands at the end of a list, where the spec has a
multiset, is the model's choice (log 15). -/
def Obligations.SendDefersTheEncodedFrame : Prop :=
  ∀ (s : State) (x : Session) (id : Tag) (h m : Fin 16) (o : Bool), s.cur = some x →
    (x.sop = .idle ∨ ∃ c, x.sop = .closeWait c .done) → x.busy = true →
    exec (.send id h.val m.val o) s =
      if x.hasRoom then .next (s.setCur { x with waiters := x.waiters ++
        [⟨id, headerRom ++ houseRom h ++ (if o then moduleRom m else (moduleRom m).set 10 true) ++ footerRom,
          1000 * Config.bitTicks⟩] })
      else .refused .heldOffAtPort

/-- 60_exceptions.md R124, R125: an invalid index is reported in the SEND step itself, the house before the module, in
whatever engine state, and no state changes. That this holds also where the engine is busy and a bounded pool is full is
the model's reading of R107 and R132 (b) (log 12). -/
def Obligations.SendReportsAnInvalidIndexAtOnce : Prop :=
  ∀ (s : State) (x : Session) (id : Tag) (h m : Int) (o : Bool), s.cur = some x →
    (x.sop = .idle ∨ ∃ c, x.sop = .closeWait c .done) →
    (h < 0 ∨ 15 < h → exec (.send id h m o) s = .next (s.setCur { x with
      hist := x.hist ++ [⟨x.ticks, .complete id .invalidHouse (.index h)⟩] })) ∧
    (0 ≤ h → h ≤ 15 → m < 0 ∨ 15 < m → exec (.send id h m o) s = .next (s.setCur { x with
      hist := x.hist ++ [⟨x.ticks, .complete id .invalidModule (.index m)⟩] }))

/-- 42_session.md R109: a SEND while an OPEN is in progress, in any of its three stages, is refused. -/
def Obligations.SendIsRefusedDuringAnOpen : Prop :=
  ∀ (s : State) (x : Session) (id : Tag) (h m : Int) (o : Bool), s.cur = some x →
    ((∃ c ep, x.sop = .closeWait c (.thenOpen ep)) ∨ (∃ c ep, x.sop = .openWait c ep) ∨ ∃ c, x.sop = .warmup c) →
    exec (.send id h m o) s = .refused .sendDuringOpen

/-- 42_session.md R108: a valid SEND on a session with no connection makes exactly one line-set attempt, when it is
accepted in its own step and when it was deferred and is accepted at its RETRY; success cannot be answered; the failure
answer reports TransportSetLinesFailure and leaves the session usable. That the answer that is no step is refused by name
is the model's choice (log 4), and that the Complete is the last entry of the history, after the answer of its step, is
the model's (log 17). -/
def Obligations.SendWithoutAConnectionFailsAfterOneLineSet : Prop :=
  ∀ (s : State) (x : Session) (id : Tag) (h m : Fin 16) (o : Bool) (e : TransportError) (i : Instr), s.cur = some x →
    x.conn = .closed → x.busy = false →
    ((i = .send id h.val m.val o ∧ x.sop = .idle) ∨
      ∃ w ∈ x.waiters, i = .retry w ∧ w.id = id ∧ w.bko = 0 ∧
        w.bits = headerRom ++ houseRom h ++ (if o then moduleRom m else (moduleRom m).set 10 true) ++ footerRom) →
    ∃ t u y, exec i s = .next t ∧ exec .ackOk t = .refused .noConnectionForSuccess ∧
      exec (.ackFail e) t = .next u ∧ u.cur = some y ∧ y.busy = false ∧ y.phase = .failed ∧ y.lineQ = none ∧
      lineSets y.hist = lineSets x.hist ++ [sym (Config.headerBit 0)] ∧
      y.hist.getLast? = some ⟨x.ticks, .complete id .transportSetLinesFailure (.error e)⟩

/-- 42_session.md R113: OPEN closes a held connection first, and asks the transport to open otherwise. -/
def Obligations.OpenClosesFirst : Prop :=
  ∀ (s : State) (x : Session) (id : Tag) (ep : Endpoint), s.cur = some x → x.sop = .idle → x.busy = false →
    x.waiters = [] →
    (x.conn = .closed → exec (.openSession id ep) s = .next (s.setCur { x with
      sop := .openWait id ep, hist := x.hist ++ [⟨x.ticks, .topenReq ep⟩] })) ∧
    (∀ held, x.conn = .openAt held → exec (.openSession id ep) s = .next (s.setCur { x with
      sop := .closeWait id (.thenOpen ep), hist := x.hist ++ [⟨x.ticks, .tcloseReq⟩] }))

/-- 42_session.md R117, R118, 60_exceptions.md R130: OPEN and CLOSE are refused while a session operation is in
progress; OPEN also while the engine is busy or a waiter exists. -/
def Obligations.OverlappingSessionOperationsAreRefused : Prop :=
  ∀ (s : State) (x : Session) (id : Tag) (ep : Endpoint), s.cur = some x →
    (x.sop ≠ .idle → exec (.openSession id ep) s = .refused .sessionOperationInProgress ∧
      exec (.closeSession id) s = .refused .sessionOperationInProgress) ∧
    (x.sop = .idle → x.busy = true ∨ x.waiters ≠ [] →
      exec (.openSession id ep) s = .refused .openDuringTransmission)

/-- 42_session.md R110: CLOSE of a closed session completes at once without the transport; of an open one it asks the
transport; neither looks at the engine. -/
def Obligations.CloseIsIdempotent : Prop :=
  ∀ (s : State) (x : Session) (id : Tag), s.cur = some x → x.sop = .idle →
    (x.conn = .closed → exec (.closeSession id) s = .next (s.setCur { x with
      hist := x.hist ++ [⟨x.ticks, .complete id .ok .nothing⟩] })) ∧
    (∀ held, x.conn = .openAt held → exec (.closeSession id) s = .next (s.setCur { x with
      sop := .closeWait id .done, hist := x.hist ++ [⟨x.ticks, .tcloseReq⟩] }))

/-- 42_session.md R119: LIST, in any state, notes its tag and asks the transport. That the tag stands at the end of a
list, where the spec has a multiset, is the model's choice (log 15). -/
def Obligations.ListAsksTheTransportInAnyState : Prop :=
  ∀ (s : State) (x : Session) (id : Tag), s.cur = some x →
    exec (.listPorts id) s = .next (s.setCur { x with
      lpend := x.lpend ++ [id], hist := x.hist ++ [⟨x.ticks, .tlistReq id⟩] })

/-- 42_session.md R114: open success holds the connection and starts the warm-up; no completion yet. -/
def Obligations.TopenOkStartsTheWarmup : Prop :=
  ∀ (s : State) (x : Session) (id : Tag) (ep : Endpoint), s.cur = some x → x.sop = .openWait id ep →
    exec .topenOk s = .next (s.setCur { x with
      conn := .openAt ep, sop := .warmup id, wtmr := 500 * Config.bitTicks,
      hist := x.hist ++ [⟨x.ticks, .topenOk⟩] })

/-- 42_session.md R115: open failure is reported at once and no connection is retained. That the answer stands in the
history before the Complete is the model's (log 17). -/
def Obligations.TopenFailReportsAndRetainsNothing : Prop :=
  ∀ (s : State) (x : Session) (id : Tag) (ep : Endpoint) (e : TransportError), s.cur = some x →
    x.sop = .openWait id ep →
    exec (.topenFail e) s = .next (s.setCur { x with
      sop := .idle,
      hist := x.hist ++ [⟨x.ticks, .topenFail e⟩] ++
        [⟨x.ticks, .complete id .transportOpenFailure (.error e)⟩] })

/-- 42_session.md R111: close success clears the connection, and completes a CLOSE or goes on with an OPEN. That the
answer stands in the history before the event is the model's (log 17). -/
def Obligations.TcloseOkCompletesOrOpens : Prop :=
  ∀ (s : State) (x : Session) (id : Tag), s.cur = some x →
    (x.sop = .closeWait id .done → exec .tcloseOk s = .next (s.setCur { x with
      conn := .closed, sop := .idle,
      hist := x.hist ++ [⟨x.ticks, .tcloseOk⟩] ++ [⟨x.ticks, .complete id .ok .nothing⟩] })) ∧
    (∀ ep, x.sop = .closeWait id (.thenOpen ep) → exec .tcloseOk s = .next (s.setCur { x with
      conn := .closed, sop := .openWait id ep,
      hist := x.hist ++ [⟨x.ticks, .tcloseOk⟩] ++ [⟨x.ticks, .topenReq ep⟩] }))

/-- 42_session.md R112: close failure is reported, of a CLOSE and of an OPEN's first half alike, and the connection is
still held. That the answer stands in the history before the Complete is the model's (log 17). -/
def Obligations.TcloseFailKeepsTheConnection : Prop :=
  ∀ (s : State) (x : Session) (id : Tag) (next : CloseNext) (e : TransportError), s.cur = some x →
    x.sop = .closeWait id next →
    exec (.tcloseFail e) s = .next (s.setCur { x with
      sop := .idle,
      hist := x.hist ++ [⟨x.ticks, .tcloseFail e⟩] ++
        [⟨x.ticks, .complete id .transportCloseFailure (.error e)⟩] })

/-- 42_session.md R116: the end of the warm-up completes the OPEN. -/
def Obligations.WarmdoneCompletesTheOpen : Prop :=
  ∀ (s : State) (x : Session) (id : Tag), s.cur = some x → x.sop = .warmup id → x.wtmr = 0 →
    exec .warmdone s = .next (s.setCur { x with
      sop := .idle, hist := x.hist ++ [⟨x.ticks, .complete id .ok .nothing⟩] })

/-- 42_session.md R120: the two answers to an enumeration take its tag out of the pending ones and complete it. That
the answer stands in the history before the Complete is the model's (log 17), and that the pending tags are a list, of
which the first equal one is taken out, is the model's choice (log 15). -/
def Obligations.ListAnswersCompleteTheirTag : Prop :=
  ∀ (s : State) (x : Session) (id : Tag) (l : List PortRecord) (e : TransportError), s.cur = some x → id ∈ x.lpend →
    exec (.tlistOk id l) s = .next (s.setCur { x with
      lpend := x.lpend.erase id,
      hist := x.hist ++ [⟨x.ticks, .tlistOk id l⟩] ++ [⟨x.ticks, .complete id .ok (.ports l)⟩] }) ∧
    exec (.tlistFail id e) s = .next (s.setCur { x with
      lpend := x.lpend.erase id,
      hist := x.hist ++ [⟨x.ticks, .tlistFail id e⟩] ++
        [⟨x.ticks, .complete id .transportEnumerateFailure (.error e)⟩] })

/-- 42_session.md R102 to R104, R116, R120, 41_engine.md R85, R87 to R90: a step outside its guard is no step of the
block. That the model answers it with a refusal of that name is its choice (log 4). -/
def Obligations.StepsOutsideTheirGuardsAreRefused : Prop :=
  ∀ (s : State) (x : Session), s.cur = some x →
    (¬ (x.busy = true ∧ x.sub = .waitAck) → exec .ackOk s = .refused .noLineSetOutstanding ∧
      ∀ e, exec (.ackFail e) s = .refused .noLineSetOutstanding) ∧
    (x.busy = true → x.sub = .waitAck → x.conn = .closed → exec .ackOk s = .refused .noConnectionForSuccess) ∧
    (¬ (x.phase = .sendingBit ∧ x.sub = .hold ∧ x.tmr = 0) → exec .expireBit s = .refused .noBitExpiry) ∧
    (¬ (x.phase = .synchronizing ∧ x.sub = .hold ∧ x.tmr = 0) → exec .expireSync s = .refused .noSyncExpiry) ∧
    (∀ w, ¬ (w ∈ x.waiters ∧ w.bko = 0) → exec (.retry w) s = .refused .noSuchWaiterDue) ∧
    ((∀ id ep, x.sop ≠ .openWait id ep) → exec .topenOk s = .refused .noOpenOutstanding ∧
      ∀ e, exec (.topenFail e) s = .refused .noOpenOutstanding) ∧
    ((∀ id next, x.sop ≠ .closeWait id next) → exec .tcloseOk s = .refused .noCloseOutstanding ∧
      ∀ e, exec (.tcloseFail e) s = .refused .noCloseOutstanding) ∧
    (¬ (∃ id, x.sop = .warmup id ∧ x.wtmr = 0) → exec .warmdone s = .refused .noWarmupEnd) ∧
    (∀ id, id ∉ x.lpend → (∀ l, exec (.tlistOk id l) s = .refused .noListOutstanding) ∧
      ∀ e, exec (.tlistFail id e) s = .refused .noListOutstanding)

/-! ## Encodings and the step -/

/-- 20_memory.md R47, 10_state.md R30: a chosen step is decoded and run on its instance; around `exec` the step only
takes the entry, selects the instance and counts, whether or not the operation is well-formed. With nothing chosen there
is no step. The schedule is the model's choice (log 2). -/
def Obligations.StepRunsTheDecodedOperation : Prop :=
  (∀ (s : State) (e : ScheduleEntry) (rest : List ScheduleEntry), s.sched = e :: rest →
    (∀ i, decode e.what = .ok i →
      step s = exec i { s with sched := rest, sel := e.inst, steps := s.steps + 1 }) ∧
    (∀ r, decode e.what = .error r → step s = .refused (.undecodable r))) ∧
  ∀ s : State, s.sched = [] → step s = .refused .noStepChosen

/-- 30_encoding.md R53 to R66: every operation its port can carry is read back from its presentation: no field of an
encoding is dropped. -/
def Obligations.DecodeReadsBackEveryEncoding : Prop :=
  ∀ i : Instr, i.wellFormed = true → decode (encode i) = .ok i

/-- 30_encoding.md R60, R65: every 19-bit word on the command port is one operation, by bits 18:17; the operands of a
SEND are the two's-complement values of bits 15:8 and 7:0 and bit 16; the others ignore bits 16:0. -/
def Obligations.CommandPortReadsItsFields : Prop :=
  ∀ (w : BitVec 19) (id : Tag) (ep : Endpoint),
    (w.toNat / 131072 = 0 → decode (.cmd true w id ep) = .ok (.send id
      (if w.toNat / 256 % 256 < 128 then (w.toNat / 256 % 256 : Nat) else ((w.toNat / 256 % 256 : Nat) : Int) - 256)
      (if w.toNat % 256 < 128 then (w.toNat % 256 : Nat) else ((w.toNat % 256 : Nat) : Int) - 256)
      (decide (w.toNat / 65536 % 2 = 1)))) ∧
    (w.toNat / 131072 = 1 → decode (.cmd true w id ep) = .ok (.openSession id ep)) ∧
    (w.toNat / 131072 = 2 → decode (.cmd true w id ep) = .ok (.closeSession id)) ∧
    (w.toNat / 131072 = 3 → decode (.cmd true w id ep) = .ok (.listPorts id))

/-- 30_encoding.md R64: on the port, an invalid house is a non-zero cmd[15:12] and an invalid module a non-zero
cmd[7:4]. -/
def Obligations.IllegalOperandsByTheirNibbles : Prop :=
  ∀ (w : BitVec 19) (o : Bool),
    (w.toNat / 4096 % 16 ≠ 0 → encodeFrame (cmdHouse w) (cmdModule w) o = .error (.invalidHouse (cmdHouse w))) ∧
    (w.toNat / 4096 % 16 = 0 → w.toNat / 16 % 16 ≠ 0 →
      encodeFrame (cmdHouse w) (cmdModule w) o = .error (.invalidModule (cmdModule w))) ∧
    (w.toNat / 4096 % 16 = 0 → w.toNat / 16 % 16 = 0 →
      ∃ f, encodeFrame (cmdHouse w) (cmdModule w) o = .ok f)

/-- 30_encoding.md R67, 95_test_vectors.md 2.2: the spec's own command words decode to the operations it names. -/
def Obligations.ListedCommandWordsDecode : Prop :=
  decodeTableWord 24 0x10000 = some (.send 0 0 0 true) ∧
  decodeTableWord 24 0x00000 = some (.send 0 0 0 false) ∧
  decodeTableWord 24 0x10F0F = some (.send 0 15 15 true) ∧
  decodeTableWord 24 0x11000 = some (.send 0 16 0 true) ∧
  decodeTableWord 24 0x1FF00 = some (.send 0 (-1) 0 true) ∧
  decodeTableWord 24 0x20000 = some (.openSession 0 noEndpoint) ∧
  decodeTableWord 24 0x40000 = some (.closeSession 0) ∧
  decodeTableWord 24 0x60000 = some (.listPorts 0)

/-- opcode_table.json, 41_engine.md R87, R88, 42_session.md R116: the internal steps are enabled exactly at their guard
patterns over the state (with the defined cell, the owner and the cell range R32 gives). -/
def Obligations.InternalStepsAreEnabledAtTheirGuardPatterns : Prop :=
  ∀ (s : State) (x : Session), s.cur = some x →
    ((∃ t, exec .expireBit s = .next t) ↔ x.engineGuard = 0b0111#4) ∧
    (x.wp ≤ 40 → ((∃ t, exec .expireSync s = .next t) ↔ x.engineGuard = 0b1011#4)) ∧
    ((∃ t, exec .warmdone s = .next t) ↔ x.sessionGuard = 0b111#3)

/-! ## The whole machine -/

/-- 10_state.md R32: the invariants hold after reset. -/
def Obligations.InvariantsHoldAtReset : Prop := State.reset.Inv ∧ State.reset.WireInv

/-- 10_state.md R32: every step from a state with the invariants leads to one with them. -/
def Obligations.EveryStepKeepsTheInvariants : Prop :=
  ∀ s t : State, s.Inv → step s = .next t → t.Inv

/-- 20_memory.md R48, 41_engine.md R93, R95: the line-sets of a transmission in flight are, in order and with nothing
between them, the first ones of its wire sequence: every step keeps this. -/
def Obligations.EveryStepKeepsTheWireInOrder : Prop :=
  ∀ s t : State, s.Inv → s.WireInv → step s = .next t → t.WireInv

/-- 30_encoding.md R58, R65: no symbol but the three is ever issued, so never (0, 0): every step keeps this. -/
def Obligations.EveryStepKeepsTheSymbolsKnown : Prop :=
  (∀ s t : State, (∀ x ∈ s.sessions, x.SymbolsKnown) → step s = .next t → ∀ y ∈ t.sessions, y.SymbolsKnown) ∧
    sym true ≠ ⟨false, false⟩ ∧ sym false ≠ ⟨false, false⟩ ∧ syncSymbol ≠ ⟨false, false⟩

/-- 41_engine.md R93, R94, 70_reset_and_hazards.md R157: a transmission of `n` bits whose every line-set succeeds issues
its whole wire sequence, takes exactly `2 n BIT_TICKS` ticks of hold, completes OK and leaves the lines at SYNC; `n` is
any length from 1 to 40, the connection open and nothing else running. -/
def Obligations.WholeTransmissionIsItsWireSequence : Prop :=
  ∀ (s : State) (x : Session) (id : Tag) (b : Bits) (ep : Endpoint), s.cur = some x → x.busy = false →
    x.conn = .openAt ep → x.waiters = [] → x.sop = .idle → 1 ≤ b.length → b.length ≤ 40 →
    ∃ y, runInstrs (.xmit id b :: transmissionSteps (2 * b.length)) s = .next (s.setCur y) ∧
      lineSets y.hist = lineSets x.hist ++ wire b ∧ (wire b).length = 2 * b.length ∧
      y.ticks = x.ticks + 2 * b.length * Config.bitTicks ∧
      y.hist.getLast? = some ⟨y.ticks, .complete id .ok .nothing⟩ ∧
      y.busy = false ∧ y.phase = .idle ∧ y.lineQ = some syncSymbol ∧ y.conn = x.conn ∧ y.waiters = []

/-- 41_engine.md R93, R94: a transmission whose `k`-th line-set fails issues exactly the first `k` of its wire sequence,
reports the failure, and leaves the engine released. That the Complete is the last entry of the history, after the answer
of its step, is the model's (log 17). -/
def Obligations.FailureAtLineSetKLeavesKLineSets : Prop :=
  ∀ (s : State) (x : Session) (id : Tag) (b : Bits) (ep : Endpoint) (k : Nat) (e : TransportError),
    s.cur = some x → x.busy = false → x.conn = .openAt ep → x.waiters = [] → x.sop = .idle →
    1 ≤ b.length → b.length ≤ 40 → 1 ≤ k → k ≤ 2 * b.length →
    ∃ y, runInstrs (.xmit id b :: (transmissionSteps (k - 1) ++ [.ackFail e])) s = .next (s.setCur y) ∧
      lineSets y.hist = lineSets x.hist ++ (wire b).take k ∧ ((wire b).take k).length = k ∧
      y.hist.getLast? = some ⟨y.ticks, .complete id .transportSetLinesFailure (.error e)⟩ ∧
      y.busy = false ∧ y.phase = .failed ∧ y.lineQ = none ∧ y.owner = none

/-- 41_engine.md R86, 60_exceptions.md R138: `k` ticks, where every running counter has at least `k` left, take `k` from
each and change nothing else but the tick count: so a hold lasts exactly BIT_TICKS ticks, a backoff BACKOFF_TICKS, a
warm-up WARMUP_TICKS. -/
def Obligations.TicksCountEveryCounterDown : Prop :=
  ∀ (k : Nat) (s : State) (x : Session), s.cur = some x → (x.sub = .hold → k ≤ x.tmr) →
    (∀ w ∈ x.waiters, k ≤ w.bko) → (x.warming = true → k ≤ x.wtmr) →
    runInstrs (List.replicate k .tick) s = .next (s.setCur { x with
      tmr := if x.sub = .hold then x.tmr - k else x.tmr
      waiters := x.waiters.map fun w => ⟨w.id, w.bits, w.bko - k⟩
      wtmr := if x.warming then x.wtmr - k else x.wtmr
      ticks := x.ticks + k })

/-- 42_session.md R109, R116: from open success on a quiet session, the completion of the OPEN comes exactly
WARMUP_TICKS ticks later and not before, and no line-set is issued in between. That a WARMDONE that is not enabled is
refused by name is the model's choice (log 4). -/
def Obligations.WarmupTakesExactlyItsTicks : Prop :=
  ∀ (s : State) (x : Session) (id : Tag) (ep : Endpoint), s.cur = some x → x.sop = .openWait id ep →
    x.sub = .waitAck → x.waiters = [] →
    (∃ y, runInstrs (.topenOk :: (List.replicate Config.warmupTicks .tick ++ [.warmdone])) s = .next (s.setCur y) ∧
      y.sop = .idle ∧ y.conn = .openAt ep ∧ y.ticks = x.ticks + 500 * Config.bitTicks ∧
      y.hist = x.hist ++ [⟨x.ticks, .topenOk⟩] ++ [⟨x.ticks + 500 * Config.bitTicks, .complete id .ok .nothing⟩]) ∧
    (∀ k, k < Config.warmupTicks → ∃ t, runInstrs (.topenOk :: List.replicate k .tick) s = .next t ∧
      exec .warmdone t = .refused .noWarmupEnd)

/-- 20_memory.md R36: the abstract queue: an accept sets it to the sequence, the end of a SYNC hold removes its first
element, a failure empties it; and the symbol issued is that of its first element. -/
def Obligations.EngineStepsAreQueueSteps : Prop :=
  ∀ (s t : State) (x y : Session), s.cur = some x → t.cur = some y → x.Inv →
    (∀ id b, x.busy = false → exec (.xmit id b) s = .next t → y.queue = b) ∧
    (exec .expireSync s = .next t → y.queue = x.queue.tail ∧
      ∀ b rest, y.queue = b :: rest → lineSets y.hist = lineSets x.hist ++ [sym b]) ∧
    (∀ e, exec (.ackFail e) s = .next t → y.queue = [])

/-- 70_reset_and_hazards.md R149, 41_engine.md R95: the flag goes from 1 to 0 on the two terminal paths and at CREATE,
and nowhere else. -/
def Obligations.BusyIsClearedOnlyOnTerminalPaths : Prop :=
  ∀ (i : Instr) (s t : State) (x y : Session), s.cur = some x → exec i s = .next t → t.cur = some y →
    x.busy = true → y.busy = false →
    i = .create ∨ (i = .expireSync ∧ ¬ x.rp + 1 < x.wp) ∨ ∃ e, i = .ackFail e

/-- 41_engine.md R92: a step issues at most one line-set, at the three places of the rule, leaves `sub = WAIT_ACK`, and
issues none while one is outstanding. (CREATE empties the history.) -/
def Obligations.LineSetsAreIssuedAtThreePlacesOnly : Prop :=
  ∀ (i : Instr) (s t : State) (x y : Session), s.cur = some x → exec i s = .next t → t.cur = some y →
    i ≠ .create →
    lineSets y.hist = lineSets x.hist ∨
      (¬ (x.busy = true ∧ x.sub = .waitAck) ∧ y.sub = .waitAck ∧ ∃ l, lineSets y.hist = lineSets x.hist ++ [l] ∧
        ((x.busy = false ∧ y.busy = true ∧ y.rp = 0 ∧ y.phase = .sendingBit ∧
            ((∃ id h m o, i = .send id h m o) ∨ (∃ id b, i = .xmit id b) ∨ ∃ w, i = .retry w)) ∨
          (i = .expireBit ∧ l = syncSymbol) ∨
          (i = .expireSync ∧ x.rp + 1 < x.wp)))

/-- 20_memory.md R39, R51, 41_engine.md R95, R97: while a transmission stays in flight no step changes its owner, its
cells or its length, and only EXPIRE.SYNC advances the read position, by one. -/
def Obligations.TransmissionInFlightIsNotDisturbed : Prop :=
  ∀ (i : Instr) (s t : State) (x y : Session), s.cur = some x → exec i s = .next t → t.cur = some y →
    x.busy = true → y.busy = true → i ≠ .create →
    y.owner = x.owner ∧ y.fmem = x.fmem ∧ y.wp = x.wp ∧
      (y.rp = x.rp ∨ (i = .expireSync ∧ y.rp = x.rp + 1))

/-- 41_engine.md R96, 42_session.md R118: no host operation but CREATE, and no answer to an open, a close or an
enumeration, changes the engine; a SEND does so only by an accept. -/
def Obligations.HostOperationsLeaveTheEngineAlone : Prop :=
  ∀ (i : Instr) (s t : State) (x y : Session), s.cur = some x → exec i s = .next t → t.cur = some y →
    ((∃ id ep, i = .openSession id ep) ∨ (∃ id, i = .closeSession id) ∨ (∃ id, i = .listPorts id) ∨
      i = .topenOk ∨ (∃ e, i = .topenFail e) ∨ i = .tcloseOk ∨ (∃ e, i = .tcloseFail e) ∨ i = .warmdone ∨
      (∃ id l, i = .tlistOk id l) ∨ (∃ id e, i = .tlistFail id e) ∨
      (x.busy = true ∧ ∃ id h m o, i = .send id h m o)) →
    x.sameEngine y

/-- 42_session.md R109: an OPEN in progress finds and leaves nothing in flight or deferred, and no line-set is issued
during it, by every operation but a direct call of `transmit` (log 5), which is no host operation. -/
def Obligations.NothingIsSentDuringAnOpen : Prop :=
  ∀ (i : Instr) (s t : State) (x y : Session), s.cur = some x → exec i s = .next t → t.cur = some y →
    (∀ id b, i ≠ .xmit id b) → x.Inv → x.OpenQuiet →
    y.OpenQuiet ∧ (x.openInProgress = true → i ≠ .create → lineSets y.hist = lineSets x.hist)

/-- 10_state.md R28: the history only grows, but for CREATE: by at most two entries a step, each with the tick count of
the step. -/
def Obligations.HistoryOnlyGrows : Prop :=
  ∀ (i : Instr) (s t : State) (x y : Session), s.cur = some x → exec i s = .next t → t.cur = some y →
    i ≠ .create →
    ∃ new, y.hist = x.hist ++ new ∧ new.length ≤ 2 ∧ (∀ e ∈ new, e.tick = x.ticks) ∧ (i = .tick → new = [])

/-- 10_state.md R34, 20_memory.md R52: a step of one instance writes only that instance, and what it does depends only on
that instance (and on the number of the step, which only names free values). An instance that does not exist takes no
step (log 4). -/
def Obligations.InstancesAreIndependent : Prop :=
  (∀ (i : Instr) (s t : State), exec i s = .next t →
    t.sel = s.sel ∧ t.sessions.length = s.sessions.length ∧
      ∀ k, k ≠ s.sel → t.sessions[k]? = s.sessions[k]?) ∧
  (∀ (i : Instr) (s s' : State), s.cur = s'.cur → s.steps = s'.steps →
    (∀ t, exec i s = .next t → ∃ t', exec i s' = .next t' ∧ t'.cur = t.cur) ∧
    (∀ r, exec i s = .fault r → exec i s' = .fault r) ∧
    (∀ r, exec i s = .refused r → exec i s' = .refused r)) ∧
  (∀ (i : Instr) (s : State), s.cur = none →
    exec i s = .refused .noSuchSession ∨ ∃ r, exec i s = .next { s with ret := r })

/-- 70_reset_and_hazards.md R146: in a quiescent session only TICK and new operations of the host are enabled (beside
the evaluations log 3 and log 5 name), and TICK changes nothing but the tick count. That a step that is not enabled is
refused by name is the model's choice (log 4). -/
def Obligations.QuiescentSessionsWaitForTheHost : Prop :=
  ∀ (s : State) (x : Session), s.cur = some x → x.Inv → x.quiescent = true →
    exec .tick s = .next (s.setCur { x with ticks := x.ticks + 1 }) ∧
    (∀ e, ∀ i ∈ [Instr.ackOk, .ackFail e, .expireBit, .expireSync, .topenOk, .topenFail e, .tcloseOk, .tcloseFail e,
      .warmdone], ∃ r, exec i s = .refused r) ∧
    (∀ w, ∃ r, exec (.retry w) s = .refused r) ∧
    (∀ id l, ∃ r, exec (.tlistOk id l) s = .refused r) ∧
    (∀ id e, ∃ r, exec (.tlistFail id e) s = .refused r)
end

