-- ==== Sys2Proof/Tests/Slice0.lean ====
section
/-! SUPPORT. Tests/Slice0.lean: the well-formedness smoke test, every operation's decoding from a word of the spec, one
or two steps of each operation with results from 95_test_vectors.md and the rules' own examples, and for each obligation
with hypotheses a state and operands that meet them. -/

namespace Sys2Proof.Tests

open Sys2Proof Sys2Proof.Machine

/-! ## Helpers -/

/-- The machine with one session and nothing else. -/
def one (x : Session) : State := ⟨[x], 0, [], 0, .nothing⟩

/-- That machine with one chosen step. -/
def chosen (x : Session) (p : Presentation) : State := ⟨[x], 0, [⟨0, p⟩], 0, .nothing⟩

/-- The session after one operation. -/
def run (i : Instr) (x : Session) : Option Session :=
  match exec i (one x) with
  | .next t => t.cur
  | _ => none

/-- The value one operation delivers. -/
def value (i : Instr) : Option Ret :=
  match exec i (one Session.reset) with
  | .next t => some t.ret
  | _ => none

/-- An endpoint, and an error of the transport. -/
def ep : Endpoint := ⟨1⟩
def err : TransportError := ⟨9⟩

/-- A session with an open connection. -/
def opened : Session := { Session.reset with conn := .openAt ep }

/-- `7: XMIT [1,0]` accepted, its first line-set not answered (V-ENG-1). -/
def flying : Session :=
  { opened with
    phase := .sendingBit, busy := true, fmem := [(0, true), (1, false)], wp := 2, owner := some 7
    hist := [⟨0, .lineSet (sym true)⟩] }

/-- The first bit's hold has ended. -/
def bitHeld : Session :=
  { flying with sub := .hold, lineQ := some (sym true), hist := flying.hist ++ [⟨0, .ackOk⟩] }

/-- Its SYNC is not answered. -/
def syncing : Session :=
  { flying with phase := .synchronizing, hist := bitHeld.hist ++ [⟨2, .lineSet syncSymbol⟩], ticks := 2 }

/-- Its SYNC's hold has ended. -/
def syncHeld : Session :=
  { syncing with sub := .hold, lineQ := some syncSymbol, hist := syncing.hist ++ [⟨2, .ackOk⟩], ticks := 4 }

/-- The last bit's SYNC's hold has ended. -/
def lastHeld : Session := { syncHeld with rp := 1 }

/-- One waiter, its backoff elapsed. -/
def due : Session := { opened with waiters := [⟨8, [true, true], 0⟩] }

/-- A warm-up with `n` ticks to go. -/
def warming (n : Nat) : Session := { opened with sop := .warmup 3, wtmr := n }

/-- An open request not answered. -/
def opening : Session := { Session.reset with sop := .openWait 3 ep }

/-- A close request not answered. -/
def closing (n : CloseNext) : Session := { opened with sop := .closeWait 3 n }

/-- An enumerate request not answered. -/
def listing : Session := { Session.reset with lpend := [4] }

/-! ## Well-formedness: one ill-formed operation for each check -/

theorem test_wf_house_range : (Instr.send 0 128 0 true).wellFormed = false := by decide
theorem test_wf_house_range_negative : (Instr.housecode (-129)).wellFormed = false := by decide
theorem test_wf_module_range : (Instr.encodeCommand 0 128 true).wellFormed = false := by decide
theorem test_wf_tag : (Instr.closeSession (2 ^ Config.tagWidth)).wellFormed = false := by
  simp [Instr.wellFormed, tagFits]
theorem test_wf_empty_sequence : (Instr.xmit 0 []).wellFormed = false := by decide
theorem test_wf_long_sequence : (Instr.xmit 0 (List.replicate 41 true)).wellFormed = false := by decide
theorem test_wf_waiter_sequence : (Instr.retry ⟨0, [], 0⟩).wellFormed = false := by decide
theorem test_wf_waiter_backoff : (Instr.retry ⟨0, [true], Config.backoffTicks + 1⟩).wellFormed = false := by
  simp [Instr.wellFormed, waiterFits]
theorem test_wf_accepts_port_extremes : (Instr.encodeCommand (-128) 127 false).wellFormed = true := by decide

/-! ## Decoding: the words of 30_encoding.md R60, R61, R67, opcode_table.json, 95_test_vectors.md 2.2 -/

theorem test_decode_create : decode (.rst true) = .ok .create := by decide
theorem test_decode_tick : decode (.tick true) = .ok .tick := by decide
/-- V-CW-3: op 00, on, house 0x0F, module 0x0F. -/
theorem test_decode_send : decode (.cmd true 0x10F0F#19 5 ep) = .ok (.send 5 15 15 true) := by decide
/-- V-CW-9: module byte 0xFF is -1, off. -/
theorem test_decode_send_negative : decode (.cmd true 0x000FF#19 5 ep) = .ok (.send 5 0 (-1) false) := by decide
theorem test_decode_open : decode (.cmd true 0x20000#19 5 ep) = .ok (.openSession 5 ep) := by decide
/-- V-CW-14: the ignored bits have no effect. -/
theorem test_decode_close : decode (.cmd true 0x5ABCD#19 5 ep) = .ok (.closeSession 5) := by decide
theorem test_decode_list : decode (.cmd true 0x60000#19 5 ep) = .ok (.listPorts 5) := by decide
theorem test_decode_nothing_presented : decode (.cmd false 0x20000#19 5 ep) = .error .nothingPresented := by decide
theorem test_decode_housecode : decode (.houseFunction 0x00C00#19) = .ok (.housecode 12) := by decide
theorem test_decode_modulecode : decode (.moduleFunction 0x000FE#19) = .ok (.modulecode (-2)) := by decide
theorem test_decode_encode : decode (.encodeFunction 0x10307#19) = .ok (.encodeCommand 3 7 true) := by decide
theorem test_decode_frame_on : decode (.frameShape 0x10101#19) = .ok (.frameOn 1 1) := by decide
/-- V-CW-5. -/
theorem test_decode_frame_off : decode (.frameShape 0x00101#19) = .ok (.frameOff 1 1) := by decide
theorem test_decode_not_a_send_word : decode (.frameShape 0x20101#19) = .error .notASendWord := by decide
/-- V-ENC-1 under GK (93_implementation_defined.md G1): 0xD5AA6000AD is the sequence with index 0 the top bit. -/
theorem test_decode_xmit : decodeTableWord 40 0xD5AA6000AD = some (.xmit 0
    [true, true, false, true, false, true, false, true, true, false, true, false, true, false, true, false,
     false, true, true, false, false, false, false, false, false, false, false, false, false, false, false, false,
     true, false, true, false, true, true, false, true]) := by decide
theorem test_decode_sync : decode (.symbol 0b11#2) = .ok .symSync := by decide
theorem test_decode_unused_symbol : decode (.symbol 0b00#2) = .error .unusedSymbol := by decide
theorem test_decode_bits_when_rts (h : Config.oneLine = .rts) :
    decode (.symbol 0b10#2) = .ok .symOne ∧ decode (.symbol 0b01#2) = .ok .symZero := by
  simp [decode, decodeSymbol, sym, h, syncSymbol, LineState.code]
theorem test_decode_bits_when_dtr (h : Config.oneLine = .dtr) :
    decode (.symbol 0b01#2) = .ok .symOne ∧ decode (.symbol 0b10#2) = .ok .symZero := by
  simp [decode, decodeSymbol, sym, h, syncSymbol, LineState.code]
theorem test_decode_line_answers : decode (.lineAnswer 0b10#2 err) = .ok .ackOk ∧
    decode (.lineAnswer 0b11#2 err) = .ok (.ackFail err) ∧
    decode (.lineAnswer 0b01#2 err) = .error .nothingPresented := by decide
theorem test_decode_open_answers : decode (.openAnswer 0b10#2 err) = .ok .topenOk ∧
    decode (.openAnswer 0b11#2 err) = .ok (.topenFail err) := by decide
theorem test_decode_close_answers : decode (.closeAnswer 0b10#2 err) = .ok .tcloseOk ∧
    decode (.closeAnswer 0b11#2 err) = .ok (.tcloseFail err) := by decide
theorem test_decode_list_answers : decode (.listAnswer 0b10#2 4 [⟨ep, ⟨2⟩⟩] err) = .ok (.tlistOk 4 [⟨ep, ⟨2⟩⟩]) ∧
    decode (.listAnswer 0b11#2 4 [] err) = .ok (.tlistFail 4 err) := by decide
theorem test_decode_expiries : decode (.engineGuard 0b0111#4) = .ok .expireBit ∧
    decode (.engineGuard 0b1011#4) = .ok .expireSync ∧
    decode (.engineGuard 0b0110#4) = .error .noSuchGuard := by decide
theorem test_decode_retry : decode (.retryGuard 1#1 ⟨8, [true], 0⟩) = .ok (.retry ⟨8, [true], 0⟩) := by decide
theorem test_decode_warmdone : decode (.sessionGuard 0b111#3) = .ok .warmdone := by decide
theorem test_decode_house_A_entry : decodeTableWord 8 0b01100 = some (.housecode 0) := by decide
theorem test_decode_module_01_entry : decodeTableWord 16 0 = some (.modulecode 0) := by decide

/-- 30_encoding.md R67: `SEND P 16 ON` is 0x10F0F, `SEND A 1 OFF` is 0x00000. -/
theorem test_send_statements : sendStatement 'P' 16 true = some 0x10F0F#19 ∧
    sendStatement 'A' 1 false = some 0#19 ∧ sendStatement 'Q' 1 true = none ∧
    sendStatement 'A' 0 true = none := by decide

/-- 30_encoding.md R63: the seven codes, and 7 reserved. -/
theorem test_status_codes : Status.ofCode 5#3 = some .transportSetLinesFailure ∧
    Status.transportEnumerateFailure.code = 6#3 ∧ Status.ofCode 7#3 = none := by decide

/-! ## Encoder: 95_test_vectors.md 2.1 -/

/-- V-ENC-12. -/
theorem test_housecode : value (.housecode 0) = some (.bits [false, true, true, false, false]) := by decide
theorem test_housecode_no_wrap : value (.housecode 16) = some (.raised (.invalidHouse 16)) := by decide
theorem test_modulecode : value (.modulecode 0) = some (.bits (List.replicate 11 false)) := by decide
theorem test_modulecode_negative : value (.modulecode (-1)) = some (.raised (.invalidModule (-1))) := by decide
/-- V-ENC-10. -/
theorem test_encode_house_first : value (.encodeCommand 16 16 true) = some (.raised (.invalidHouse 16)) := by decide
/-- V-ENC-9. -/
theorem test_encode_module : value (.encodeCommand 0 (-1) false) = some (.raised (.invalidModule (-1))) := by decide

/-- Frame indices 16 to 31 of a delivered frame. -/
def middle : Option Ret → Bits
  | some (.bits f) => (f.drop 16).take 16
  | _ => []

/-- V-ENC-1: `F[16..20] = 01100`, `F[21..31]` eleven zeros. -/
theorem test_frame_on : middle (value (.frameOn 0 0)) =
    [false, true, true, false, false, false, false, false, false, false, false, false, false, false, false, false] := by
  decide
/-- V-ENC-2: it differs at index 31 only. -/
theorem test_frame_off : middle (value (.frameOff 0 0)) =
    [false, true, true, false, false, false, false, false, false, false, false, false, false, false, false, true] := by
  decide

/-- HEADER and FOOTER of 93_implementation_defined.md G1, general knowledge. -/
def gkHeader : Bits :=
  [true, true, false, true, false, true, false, true, true, false, true, false, true, false, true, false]
def gkFooter : Bits := [true, false, true, false, true, true, false, true]

/-- V-ENC-1, V-ENC-2 under GK. -/
theorem test_gk_frames :
    pack (assembleFrame gkHeader [false, true, true, false, false] (polarity (List.replicate 11 false) true)
      gkFooter) = 0xD5AA6000AD ∧
    pack (assembleFrame gkHeader [false, true, true, false, false] (polarity (List.replicate 11 false) false)
      gkFooter) = 0xD5AA6001AD := by decide

/-- 30_encoding.md R58: the two symbols of a bit are complements, SYNC asserts both lines. -/
theorem test_symbols : value .symSync = some (.symbol ⟨true, true⟩) := by decide
theorem test_symbol_one (h : Config.oneLine = .rts) : value .symOne = some (.symbol ⟨true, false⟩) := by
  simp [value, exec, execSymOne, State.deliver, sym, h]
theorem test_symbol_zero (h : Config.oneLine = .rts) : value .symZero = some (.symbol ⟨false, true⟩) := by
  simp [value, exec, execSymZero, State.deliver, sym, h]

/-! ## Engine: 95_test_vectors.md 2.3 -/

/-- V-ENG-1, first line. -/
theorem test_xmit_accept : run (.xmit 7 [true, false]) opened = some flying := by rfl
/-- V-ENG-17. -/
theorem test_xmit_empty : exec (.xmit 1 []) (one opened) = .refused .sequenceLength := by rfl
/-- V-ENG-1, second line. -/
theorem test_ackOk : (run .ackOk flying).map (fun y => (y.lineQ, y.tmr, y.sub)) =
    some (some (sym true), Config.bitTicks, .hold) := by rfl
/-- V-SES-11: no success without a connection. -/
theorem test_ackOk_closed : exec .ackOk (one { flying with conn := .closed }) = .refused .noConnectionForSuccess := by
  rfl
/-- V-ENG-9: a failure at the first line-set. -/
theorem test_ackFail : (run (.ackFail err) flying).map (fun y => (y.busy, y.phase, y.wp, y.owner, y.lineQ)) =
    some (false, .failed, 0, none, none) := by rfl
/-- V-ENG-8: a failure in the synchronising phase reports once. -/
theorem test_ackFail_sync : (run (.ackFail err) syncing).map (fun y => y.hist.drop 3) =
    some [⟨2, .ackFail err⟩, ⟨2, .complete 7 .transportSetLinesFailure (.error err)⟩] := by rfl
/-- R86's example: `tmr = 3`, one waiter with `bko = 5`. -/
theorem test_tick : (run .tick { bitHeld with tmr := 3, waiters := [⟨8, [true], 5⟩] }).map
    (fun y => (y.tmr, y.waiters, y.ticks)) = some (2, [⟨8, [true], 4⟩], 1) := by decide
/-- V-ENG-4: urgency. -/
theorem test_tick_waits : exec .tick (one bitHeld) = .refused .urgentStepFirst := by rfl
theorem test_expireBit : (run .expireBit bitHeld).map (fun y => (y.phase, y.sub, y.rp, y.hist.drop 2)) =
    some (.synchronizing, .waitAck, 0, [⟨0, .lineSet ⟨true, true⟩⟩]) := by rfl
/-- V-ENG-1 at t=4. -/
theorem test_expireSync_next_bit : (run .expireSync syncHeld).map (fun y => (y.phase, y.sub, y.rp, y.hist.drop 4)) =
    some (.sendingBit, .waitAck, 1, [⟨4, .lineSet (sym false)⟩]) := by rfl
/-- V-ENG-1 at t=8: exhausted. -/
theorem test_expireSync_done : (run .expireSync lastHeld).map
    (fun y => (y.busy, y.phase, y.rp, y.wp, y.owner, y.hist.drop 4)) =
    some (false, .idle, 0, 0, none, [⟨4, .complete 7 .ok .nothing⟩]) := by rfl
/-- R90's example. -/
theorem test_retry_accept : (run (.retry ⟨8, [true, true], 0⟩) due).map
    (fun y => (y.waiters, y.busy, y.owner, y.wp)) = some ([], true, some 8, 2) := by rfl
/-- V-ENG-12: busy, so deferred again with a full backoff. -/
theorem test_retry_defer : (run (.retry ⟨8, [true], 0⟩) { flying with waiters := [⟨8, [true], 0⟩] }).map
    (fun y => (y.waiters, y.owner)) = some ([⟨8, [true], Config.backoffTicks⟩], some 7) := by rfl

/-! ## Session: 95_test_vectors.md 2.4 to 2.6 -/

/-- V-RST-3: CREATE of a live instance. -/
theorem test_create : run .create { lastHeld with waiters := [⟨8, [true], 5⟩] } = some Session.reset := by rfl
/-- V-ERR-5: an invalid command is never deferred. -/
theorem test_send_invalid : (run (.send 2 16 0 true) flying).map (fun y => (y.waiters, y.hist.drop 1)) =
    some ([], [⟨0, .complete 2 .invalidHouse (.index 16)⟩]) := by rfl
/-- V-SES-9. -/
theorem test_send_during_open : exec (.send 1 0 0 true) (one (warming 400)) = .refused .sendDuringOpen := by rfl
/-- R113's example. -/
theorem test_open : (run (.openSession 3 ep) Session.reset).map (fun y => (y.sop, y.hist)) =
    some (.openWait 3 ep, [⟨0, .topenReq ep⟩]) := by decide
/-- V-SES-13. -/
theorem test_open_busy : exec (.openSession 3 ep) (one flying) = .refused .openDuringTransmission := by rfl
/-- V-SES-1. -/
theorem test_close : run (.closeSession 5) Session.reset =
    some { Session.reset with hist := [⟨0, .complete 5 .ok .nothing⟩] } := by decide
/-- V-SES-14. -/
theorem test_close_overlap : exec (.closeSession 5) (one opening) = .refused .sessionOperationInProgress := by rfl
/-- V-SES-15. -/
theorem test_list : (run (.listPorts 4) Session.reset).map (fun y => (y.lpend, y.hist)) =
    some ([4], [⟨0, .tlistReq 4⟩]) := by decide
/-- V-SES-3. -/
theorem test_topenOk : (run .topenOk opening).map (fun y => (y.conn, y.sop, y.wtmr)) =
    some (.openAt ep, .warmup 3, Config.warmupTicks) := by rfl
/-- V-SES-5. -/
theorem test_topenFail : (run (.topenFail err) opening).map (fun y => (y.conn, y.sop, y.hist.drop 1)) =
    some (.closed, .idle, [⟨0, .complete 3 .transportOpenFailure (.error err)⟩]) := by decide
/-- V-SES-8. -/
theorem test_tcloseOk : (run .tcloseOk (closing .done)).map (fun y => (y.conn, y.sop, y.hist.drop 1)) =
    some (.closed, .idle, [⟨0, .complete 3 .ok .nothing⟩]) := by decide
/-- V-SES-6. -/
theorem test_tcloseOk_then_open : (run .tcloseOk (closing (.thenOpen ⟨2⟩))).map (fun y => (y.conn, y.sop, y.hist.drop 1)) =
    some (.closed, .openWait 3 ⟨2⟩, [⟨0, .topenReq ⟨2⟩⟩]) := by decide
/-- V-SES-7. -/
theorem test_tcloseFail : (run (.tcloseFail err) (closing (.thenOpen ⟨2⟩))).map (fun y => (y.conn, y.sop)) =
    some (.openAt ep, .idle) := by decide
/-- V-SES-4. -/
theorem test_warmdone : (run .warmdone (warming 0)).map (fun y => (y.sop, y.hist)) =
    some (.idle, [⟨0, .complete 3 .ok .nothing⟩]) := by decide
/-- V-SES-3: not at `wtmr = 1`. -/
theorem test_warmdone_early : exec .warmdone (one (warming 1)) = .refused .noWarmupEnd := by rfl
/-- V-SES-15. -/
theorem test_tlistOk : (run (.tlistOk 4 [⟨ep, ⟨2⟩⟩]) listing).map (fun y => (y.lpend, y.hist.drop 1)) =
    some ([], [⟨0, .complete 4 .ok (.ports [⟨ep, ⟨2⟩⟩])⟩]) := by decide
/-- V-SES-16. -/
theorem test_tlistFail : (run (.tlistFail 4 err) listing).map (fun y => (y.lpend, y.hist.drop 1)) =
    some ([], [⟨0, .complete 4 .transportEnumerateFailure (.error err)⟩]) := by decide
/-- A placed table word is the next step's operation. -/
theorem test_fetch_word : ∃ t, step (State.reset.withFetchWord 24 0x40000) = .next t ∧
    t.cur.map (fun y => y.hist) = some [⟨0, .complete 0 .ok .nothing⟩] := ⟨_, rfl, rfl⟩

/-! ## Witnesses: for each obligation with hypotheses, a state and operands that meet them, clause by clause -/

theorem witness_CreateSetsEveryElementToReset : (one lastHeld).cur = some lastHeld := by rfl

/-- The index clauses of CodeTablesLookUpOrFail, EncodeConcatenatesOrFails and FrameShapesDifferAtMostAtIndex31 at
their boundaries: -1 and 16 fail, 0 and 15 are entries. -/
theorem witness_index_clauses : ((-1 : Int) < 0 ∨ 15 < (-1 : Int)) ∧ ((16 : Int) < 0 ∨ 15 < (16 : Int)) ∧
    ((0 : Fin 16).val = 0 ∧ (15 : Fin 16).val = 15) := by decide

/-- FrameMapIndexByIndex: the last index of each segment. -/
theorem witness_FrameMapIndexByIndex : 15 < 16 ∧ 4 < 5 ∧ 9 < 10 ∧ 7 < 8 := by decide

/-- Tables that meet the three conditions. -/
def sampleHouses (h : Fin 16) : Bits := unpack 5 h.val
def sampleModules (m : Fin 16) : Bits := unpack 10 m.val ++ [false]

theorem witness_FrameReadBackUnderTableConditions :
    (∀ h, (sampleHouses h).length = 5) ∧ (∀ m, (sampleModules m).length = 11) ∧ Function.Injective sampleHouses ∧
      Function.Injective sampleModules ∧ (∀ m, (sampleModules m)[10]? = some false) ∧
      assembleFrame [] (sampleHouses 15) (polarity (sampleModules 15) false) [] =
        assembleFrame [] (sampleHouses 15) (polarity (sampleModules 15) false) [] := by
  refine ⟨by decide, by decide, by unfold Function.Injective; decide, by unfold Function.Injective; decide,
    by decide, rfl⟩

theorem witness_XmitAcceptsWhenNotBusy : (one opened).cur = some opened ∧ opened.busy = false ∧
    (true :: List.replicate 39 false).length ≤ 40 := by decide

theorem witness_AcceptStoresTheSequenceAndNothingElse : (one opened).cur = some opened ∧ opened.busy = false ∧
    ∃ t, exec (.xmit 7 [true, false]) (one opened) = .next t ∧ t.cur = some flying ∧ 1 < [true, false].length ∧
      [true, false].length ≤ 2 :=
  ⟨rfl, rfl, _, rfl, rfl, by decide, by decide⟩

theorem witness_XmitDefersWhenBusy : (one flying).cur = some flying ∧ flying.busy = true ∧
    1 ≤ [true].length ∧ (List.replicate 40 true).length ≤ 40 := ⟨rfl, rfl, by decide, by decide⟩

theorem witness_TransmitRefusesOtherLengths :
    (one { Session.reset with waiters := [⟨8, [], 0⟩] }).cur = some { Session.reset with waiters := [⟨8, [], 0⟩] } ∧
      ([] : Bits).length = 0 ∧ 40 < (List.replicate 41 true).length ∧ (⟨8, [], 0⟩ : Waiter) ∈ [⟨8, [], 0⟩] := by
  decide

theorem witness_AckOkStartsTheHold_bit : (one flying).cur = some flying ∧ flying.busy = true ∧ flying.sub = .waitAck ∧
    flying.conn = .openAt ep ∧ flying.phase = .sendingBit ∧ flying.rp < flying.wp ∧ flying.rp < 40 ∧
    Memory.read flying.fmem flying.rp = some true := ⟨rfl, rfl, rfl, rfl, rfl, by decide, by decide, rfl⟩

theorem witness_AckOkStartsTheHold_sync : (one syncing).cur = some syncing ∧ syncing.busy = true ∧
    syncing.sub = .waitAck ∧ syncing.conn = .openAt ep ∧ syncing.phase ≠ .sendingBit :=
  ⟨rfl, rfl, rfl, rfl, by decide⟩

theorem witness_AckFailAbortsTheTransmission : (one syncing).cur = some syncing ∧ syncing.busy = true ∧
    syncing.sub = .waitAck ∧ syncing.owner = some 7 := ⟨rfl, rfl, rfl, rfl⟩

/-- TickDecrementsRunningCounters, with all three counters at their least running value. -/
def ticking : Session :=
  { flying with sub := .hold, tmr := 1, waiters := [⟨8, [true], 1⟩], sop := .warmup 3, wtmr := 1 }

theorem witness_TickDecrementsRunningCounters : (one ticking).cur = some ticking ∧
    (ticking.sub = .hold → 0 < ticking.tmr) ∧ (∀ w ∈ ticking.waiters, 0 < w.bko) ∧
    (∀ id, ticking.sop = .warmup id → 0 < ticking.wtmr) := by
  simp [one, State.cur, ticking]

theorem witness_TickYieldsToUrgentSteps : (one bitHeld).cur = some bitHeld := by rfl

theorem witness_ExpireBitIssuesSync : (one bitHeld).cur = some bitHeld ∧ bitHeld.phase = .sendingBit ∧
    bitHeld.sub = .hold ∧ bitHeld.tmr = 0 := ⟨rfl, rfl, rfl, rfl⟩

theorem witness_ExpireSyncAdvancesOrCompletes_next : (one syncHeld).cur = some syncHeld ∧
    syncHeld.phase = .synchronizing ∧ syncHeld.sub = .hold ∧ syncHeld.tmr = 0 ∧ syncHeld.rp + 1 < syncHeld.wp ∧
    syncHeld.rp + 1 < 40 ∧ Memory.read syncHeld.fmem (syncHeld.rp + 1) = some false :=
  ⟨rfl, rfl, rfl, rfl, by decide, by decide, rfl⟩

theorem witness_ExpireSyncAdvancesOrCompletes_last : (one lastHeld).cur = some lastHeld ∧
    lastHeld.phase = .synchronizing ∧ lastHeld.sub = .hold ∧ lastHeld.tmr = 0 ∧ ¬ lastHeld.rp + 1 < lastHeld.wp ∧
    lastHeld.owner = some 7 := ⟨rfl, rfl, rfl, rfl, by decide, rfl⟩

theorem witness_RetryAcceptsOrDefersAgain : (one due).cur = some due ∧
    (⟨8, true :: [true], 0⟩ : Waiter) ∈ due.waiters ∧ (true :: [true]).length ≤ 40 := by decide

theorem witness_SendLoadsTheFrameOfTheCommand : (one opened).cur = some opened ∧ opened.sop = .idle ∧
    opened.busy = false := ⟨rfl, rfl, rfl⟩

/-- V-SES-18: a plain CLOSE in progress. -/
theorem witness_SendLoadsTheFrameOfTheCommand_closing : (one (closing .done)).cur = some (closing .done) ∧
    (∃ c, (closing .done).sop = .closeWait c .done) ∧ (closing .done).busy = false := ⟨rfl, ⟨3, rfl⟩, rfl⟩

theorem witness_SendDefersTheEncodedFrame : (one flying).cur = some flying ∧ flying.sop = .idle ∧
    flying.busy = true := ⟨rfl, rfl, rfl⟩

theorem witness_SendReportsAnInvalidIndexAtOnce : (one flying).cur = some flying ∧ flying.sop = .idle ∧
    ((-1 : Int) < 0 ∧ 15 < (16 : Int)) ∧ ((0 : Int) ≤ 0 ∧ (15 : Int) ≤ 15) :=
  ⟨rfl, rfl, by decide, by decide⟩

theorem witness_SendIsRefusedDuringAnOpen :
    (∃ c e, (closing (.thenOpen ep)).sop = .closeWait c (.thenOpen e)) ∧ (∃ c e, opening.sop = .openWait c e) ∧
      ∃ c, (warming 1).sop = .warmup c := ⟨⟨3, ep, rfl⟩, ⟨3, ep, rfl⟩, 3, rfl⟩

/-- SendWithoutAConnectionFailsAfterOneLineSet, the SEND accepted in its own step. -/
theorem witness_SendWithoutAConnectionFailsAfterOneLineSet_send : (one Session.reset).cur = some Session.reset ∧
    Session.reset.conn = .closed ∧ Session.reset.busy = false ∧ Session.reset.sop = .idle := ⟨rfl, rfl, rfl, rfl⟩

/-- A closed session on which the backoff of a deferred `SEND P 16 OFF` has elapsed. -/
def deferredSend : Session :=
  { Session.reset with
    waiters := [⟨8, headerRom ++ houseRom 15 ++ (moduleRom 15).set 10 true ++ footerRom, 0⟩] }

/-- SendWithoutAConnectionFailsAfterOneLineSet, the deferred SEND at its RETRY. -/
theorem witness_SendWithoutAConnectionFailsAfterOneLineSet_retry : (one deferredSend).cur = some deferredSend ∧
    deferredSend.conn = .closed ∧ deferredSend.busy = false ∧
    ∃ w ∈ deferredSend.waiters, w.id = 8 ∧ w.bko = 0 ∧
      w.bits = headerRom ++ houseRom 15 ++ (if false then moduleRom 15 else (moduleRom 15).set 10 true) ++ footerRom :=
  ⟨rfl, rfl, rfl, _, List.mem_singleton.2 rfl, rfl, rfl, rfl⟩

theorem witness_OpenClosesFirst : Session.reset.sop = .idle ∧ Session.reset.busy = false ∧
    Session.reset.waiters = [] ∧ Session.reset.conn = .closed ∧ opened.sop = .idle ∧ opened.busy = false ∧
    opened.waiters = [] ∧ opened.conn = .openAt ep := ⟨rfl, rfl, rfl, rfl, rfl, rfl, rfl, rfl⟩

theorem witness_OverlappingSessionOperationsAreRefused : opening.sop ≠ .idle ∧
    (flying.sop = .idle ∧ flying.busy = true) ∧ (due.sop = .idle ∧ due.waiters ≠ []) := by
  refine ⟨by decide, ⟨rfl, rfl⟩, rfl, by decide⟩

theorem witness_CloseIsIdempotent : (Session.reset.sop = .idle ∧ Session.reset.conn = .closed) ∧
    (flying.sop = .idle ∧ flying.conn = .openAt ep) := ⟨⟨rfl, rfl⟩, rfl, rfl⟩

theorem witness_ListAsksTheTransportInAnyState : (one flying).cur = some flying := by rfl

/-- TopenOkStartsTheWarmup and TopenFailReportsAndRetainsNothing. -/
theorem witness_open_answers : (one opening).cur = some opening ∧ opening.sop = .openWait 3 ep := ⟨rfl, rfl⟩

/-- TcloseOkCompletesOrOpens and TcloseFailKeepsTheConnection. -/
theorem witness_close_answers : (closing .done).sop = .closeWait 3 .done ∧
    (closing (.thenOpen ep)).sop = .closeWait 3 (.thenOpen ep) := ⟨rfl, rfl⟩

theorem witness_WarmdoneCompletesTheOpen : (one (warming 0)).cur = some (warming 0) ∧
    (warming 0).sop = .warmup 3 ∧ (warming 0).wtmr = 0 := ⟨rfl, rfl, rfl⟩

theorem witness_ListAnswersCompleteTheirTag : (one listing).cur = some listing ∧ 4 ∈ listing.lpend := by decide

/-- StepsOutsideTheirGuardsAreRefused: the reset session meets every clause but the second. -/
theorem witness_StepsOutsideTheirGuardsAreRefused : ¬ (Session.reset.busy = true ∧ Session.reset.sub = .waitAck) ∧
    (Session.reset.phase ≠ .sendingBit ∧ Session.reset.phase ≠ .synchronizing) ∧ Session.reset.waiters = [] ∧
    Session.reset.sop = .idle ∧ Session.reset.lpend = [] ∧
    ({ flying with conn := .closed } : Session).busy = true ∧ ({ flying with conn := .closed } : Session).sub = .waitAck := by
  refine ⟨by decide, by decide, rfl, rfl, rfl, rfl, rfl⟩

theorem witness_StepRunsTheDecodedOperation :
    (chosen Session.reset (.cmd true 0x60000#19 0 ep)).sched = [⟨0, .cmd true 0x60000#19 0 ep⟩] ∧
      decode (.cmd true 0x60000#19 0 ep) = .ok (.listPorts 0) ∧
      (decode (.transmitCall 0 []) = .ok (.xmit 0 []) ∧ (Instr.xmit 0 []).wellFormed = false) ∧
      decode (.rst false) = .error .nothingPresented ∧ (one Session.reset).sched = [] := by
  refine ⟨rfl, by decide, by decide, by decide, rfl⟩

theorem witness_DecodeReadsBackEveryEncoding : (Instr.send 0 (-128) 127 true).wellFormed = true := by
  simp [Instr.wellFormed, indexFits, tagFits]

theorem witness_CommandPortReadsItsFields : (0x1FFFF#19).toNat / 131072 = 0 ∧ (0x3FFFF#19).toNat / 131072 = 1 ∧
    (0x40000#19).toNat / 131072 = 2 ∧ (0x7FFFF#19).toNat / 131072 = 3 := by decide

theorem witness_IllegalOperandsByTheirNibbles : (0x01000#19).toNat / 4096 % 16 ≠ 0 ∧
    ((0x00F10#19).toNat / 4096 % 16 = 0 ∧ (0x00F10#19).toNat / 16 % 16 ≠ 0) ∧
    ((0x00F0F#19).toNat / 4096 % 16 = 0 ∧ (0x00F0F#19).toNat / 16 % 16 = 0) := by decide

theorem witness_InternalStepsAreEnabledAtTheirGuardPatterns : bitHeld.engineGuard = 0b0111#4 ∧
    syncHeld.engineGuard = 0b1011#4 ∧ syncHeld.wp ≤ 40 ∧ (warming 0).sessionGuard = 0b111#3 := by
  refine ⟨rfl, rfl, by decide, rfl⟩

/-- The sessions of the vectors keep R32. -/
theorem flying_inv : flying.Inv := by
  constructor <;>
    simp [flying, opened, Session.reset, Session.lineSetOutstanding, Event.lineSymbol, Event.isLineAnswer, Memory.wf,
      Memory.read, Config.fifoDepth]
  intro a ha; interval_cases a <;> simp

theorem syncHeld_inv : syncHeld.Inv := by
  constructor <;>
    simp [syncHeld, syncing, bitHeld, flying, opened, Session.reset, Session.lineSetOutstanding, Event.lineSymbol,
      Event.isLineAnswer, Memory.wf, Memory.read, Config.fifoDepth]
  intro a ha; interval_cases a <;> simp

theorem lastHeld_inv : lastHeld.Inv := by
  obtain ⟨-, b, c, d, e, f, g, h, i, j, k, l, m, n, o, p⟩ := syncHeld_inv
  exact ⟨by decide, b, by simp [lastHeld, syncHeld, syncing, flying], by simp [lastHeld, syncHeld, syncing, flying],
    e, f, g, h, i, j, k, l, m, n, o, p⟩

theorem opening_inv : opening.Inv := by
  constructor <;>
    simp [opening, Session.reset, Session.lineSetOutstanding, lineAnswers, Memory.wf]

theorem reset_inv : Session.reset.Inv := by
  constructor <;> simp [Session.reset, Session.lineSetOutstanding, lineAnswers, Memory.wf]

/-- NothingUndefinedIsReadAndEveryEndIsReported: an operation that reads the FIFO at the last cell below wp, one
refused, and both ends of a transmission. -/
theorem witness_NothingUndefinedIsReadAndEveryEndIsReported :
    (syncHeld.Inv ∧ ∃ t, exec .expireSync (one syncHeld) = .next t) ∧
      (flying.Inv ∧ exec .expireBit (one flying) = .refused .noBitExpiry ∧ flying.busy = true ∧
        ∃ t y, exec (.ackFail err) (one flying) = .next t ∧ t.cur = some y ∧ y.busy = false) ∧
      (lastHeld.Inv ∧ lastHeld.busy = true ∧
        ∃ t y, exec .expireSync (one lastHeld) = .next t ∧ t.cur = some y ∧ y.busy = false) :=
  ⟨⟨syncHeld_inv, _, rfl⟩, ⟨flying_inv, rfl, rfl, _, _, rfl, rfl, rfl⟩, lastHeld_inv, rfl, _, _, rfl, rfl, rfl⟩

theorem flying_wire : flying.WireInv := fun _ => ⟨[], by rfl⟩

/-- EveryStepKeepsTheInvariants and EveryStepKeepsTheWireInOrder: a failure answer to a transmission in flight. -/
theorem witness_steps_keep_invariants : (chosen flying (.lineAnswer 3#2 err)).Inv ∧
    (chosen flying (.lineAnswer 3#2 err)).WireInv ∧ ∃ t, step (chosen flying (.lineAnswer 3#2 err)) = .next t := by
  refine ⟨fun x hx => ?_, fun x hx => ?_, _, rfl⟩ <;> simp only [chosen, List.mem_singleton] at hx <;> subst hx
  · exact flying_inv
  · exact flying_wire

theorem witness_EveryStepKeepsTheSymbolsKnown : flying.SymbolsKnown := by
  simp [Session.SymbolsKnown, flying, Event.lineSymbol]

/-- WholeTransmissionIsItsWireSequence and FailureAtLineSetKLeavesKLineSets, at the shortest and the longest sequence
and at the first and the last line-set. -/
theorem witness_transmissions : (one opened).cur = some opened ∧ opened.busy = false ∧ opened.conn = .openAt ep ∧
    opened.waiters = [] ∧ opened.sop = .idle ∧ 1 ≤ [true].length ∧ (List.replicate 40 true).length ≤ 40 ∧
    1 ≤ 1 ∧ 80 ≤ 2 * (List.replicate 40 true).length := by
  refine ⟨rfl, rfl, rfl, rfl, rfl, by decide, by decide, by decide, by decide⟩

theorem witness_TicksCountEveryCounterDown : (one ticking).cur = some ticking ∧ (ticking.sub = .hold → 1 ≤ ticking.tmr) ∧
    (∀ w ∈ ticking.waiters, 1 ≤ w.bko) ∧ (ticking.warming = true → 1 ≤ ticking.wtmr) := by
  simp [one, State.cur, ticking]

theorem witness_WarmupTakesExactlyItsTicks : (one opening).cur = some opening ∧ opening.sop = .openWait 3 ep ∧
    opening.sub = .waitAck ∧ opening.waiters = [] ∧ Config.warmupTicks - 1 < Config.warmupTicks := by
  refine ⟨rfl, rfl, rfl, rfl, ?_⟩
  simp only [Config.warmupTicks, Config.bitTicks]; omega

/-- EngineStepsAreQueueSteps, its three clauses. -/
theorem witness_EngineStepsAreQueueSteps :
    (Session.reset.Inv ∧ Session.reset.busy = false ∧ ∃ t, exec (.xmit 1 [true]) (one Session.reset) = .next t) ∧
      (syncHeld.Inv ∧ ∃ t, exec .expireSync (one syncHeld) = .next t) ∧
      (flying.Inv ∧ ∃ t, exec (.ackFail err) (one flying) = .next t) :=
  ⟨⟨reset_inv, rfl, _, rfl⟩, ⟨syncHeld_inv, _, rfl⟩, flying_inv, _, rfl⟩

theorem witness_BusyIsClearedOnlyOnTerminalPaths : flying.busy = true ∧
    ∃ t y, exec (.ackFail err) (one flying) = .next t ∧ t.cur = some y ∧ y.busy = false := ⟨rfl, _, _, rfl, rfl, rfl⟩

theorem witness_LineSetsAreIssuedAtThreePlacesOnly :
    ∃ t y, exec .expireBit (one bitHeld) = .next t ∧ t.cur = some y ∧ Instr.expireBit ≠ .create :=
  ⟨_, _, rfl, rfl, by decide⟩

theorem witness_TransmissionInFlightIsNotDisturbed : syncHeld.busy = true ∧
    ∃ t y, exec .expireSync (one syncHeld) = .next t ∧ t.cur = some y ∧ y.busy = true ∧ Instr.expireSync ≠ .create :=
  ⟨rfl, _, _, rfl, rfl, rfl, by decide⟩

theorem witness_HostOperationsLeaveTheEngineAlone :
    (∃ t y, exec (.closeSession 5) (one flying) = .next t ∧ t.cur = some y) ∧
      (flying.busy = true ∧ ∃ t y, exec (.send 5 16 0 true) (one flying) = .next t ∧ t.cur = some y) :=
  ⟨⟨_, _, rfl, rfl⟩, rfl, _, _, rfl, rfl⟩

theorem witness_NothingIsSentDuringAnOpen : opening.Inv ∧ opening.OpenQuiet ∧ opening.openInProgress = true ∧
    ∃ t y, exec .topenOk (one opening) = .next t ∧ t.cur = some y ∧ (∀ id b, Instr.topenOk ≠ .xmit id b) :=
  ⟨opening_inv, fun _ => ⟨rfl, rfl⟩, rfl, _, _, rfl, rfl, by simp⟩

theorem witness_HistoryOnlyGrows :
    ∃ t y, exec (.ackFail err) (one flying) = .next t ∧ t.cur = some y ∧ Instr.ackFail err ≠ .create :=
  ⟨_, _, rfl, rfl, by decide⟩

/-- InstancesAreIndependent: two machines that differ in another instance, and one without the selected instance. -/
theorem witness_InstancesAreIndependent :
    (State.mk [flying, opening] 0 [] 0 .nothing).cur = (one flying).cur ∧
      (∃ t, exec (.ackFail err) (State.mk [flying, opening] 0 [] 0 .nothing) = .next t) ∧
      (State.mk [flying] 1 [] 0 .nothing).cur = none := ⟨rfl, ⟨_, rfl⟩, rfl⟩

theorem witness_QuiescentSessionsWaitForTheHost : (one Session.reset).cur = some Session.reset ∧
    Session.reset.Inv ∧ Session.reset.quiescent = true := ⟨rfl, reset_inv, rfl⟩

end Sys2Proof.Tests
end

section
/-! The command port: the fields of any 19-bit command word as numbers of the word's value, and the
decoding of the command port by its operation field (30_encoding.md R60). -/

namespace Sys2Proof

/-! ## The fields of a command word as numbers -/

/-- `sint` of the byte from bit `k` up: two's complement, by the sign bit's weight (30_encoding.md R60). -/
theorem toInt_byte (w : BitVec 19) (k : Nat) :
    (w.extractLsb' k 8).toInt =
      if w.toNat / 2 ^ k % 256 < 128 then ((w.toNat / 2 ^ k % 256 : Nat) : Int)
      else ((w.toNat / 2 ^ k % 256 : Nat) : Int) - 256 := by
  have value : (w.extractLsb' k 8).toNat = w.toNat / 2 ^ k % 256 := by
    rw [BitVec.extractLsb'_toNat, Nat.shiftRight_eq_div_pow]
  have sign : 2 * (w.toNat / 2 ^ k % 256) < 2 ^ 8 ↔ w.toNat / 2 ^ k % 256 < 128 := by omega
  simp only [BitVec.toInt_eq_toNat_cond, value, sign]
  rfl

theorem cmdHouse_eq (w : BitVec 19) :
    cmdHouse w = if w.toNat / 256 % 256 < 128 then ((w.toNat / 256 % 256 : Nat) : Int)
      else ((w.toNat / 256 % 256 : Nat) : Int) - 256 :=
  toInt_byte w 8

theorem cmdModule_eq (w : BitVec 19) :
    cmdModule w = if w.toNat % 256 < 128 then ((w.toNat % 256 : Nat) : Int)
      else ((w.toNat % 256 : Nat) : Int) - 256 := by
  rw [cmdModule, toInt_byte, Nat.pow_zero, Nat.div_one]

theorem cmdOn_eq (w : BitVec 19) : cmdOn w = decide (w.toNat / 65536 % 2 = 1) := by
  rw [cmdOn, BitVec.getLsbD, Nat.testBit_eq_decide_div_mod_eq]

/-- The operation field is all that stands above bit 16, so it is the word's quotient by 2^17. -/
theorem cmdOp_eq_iff (w : BitVec 19) (op : BitVec 2) : cmdOp w = op ↔ w.toNat / 131072 = op.toNat := by
  have value : (cmdOp w).toNat = w.toNat / 131072 := by
    rw [cmdOp, BitVec.extractLsb'_toNat, Nat.shiftRight_eq_div_pow]
    have := w.isLt
    omega
  rw [← BitVec.toNat_inj, value]

/-! ## The command port by its operation field -/

section
variable {w : BitVec 19} (id : Tag) (ep : Endpoint)

theorem decode_cmd_send (h : cmdOp w = 0#2) :
    decode (.cmd true w id ep) = .ok (.send id (cmdHouse w) (cmdModule w) (cmdOn w)) := by
  simp [decode, decodeCommand, h]

theorem decode_cmd_open (h : cmdOp w = 1#2) : decode (.cmd true w id ep) = .ok (.openSession id ep) := by
  simp [decode, decodeCommand, h]

theorem decode_cmd_close (h : cmdOp w = 2#2) : decode (.cmd true w id ep) = .ok (.closeSession id) := by
  simp [decode, decodeCommand, h]

theorem decode_cmd_list (h : cmdOp w = 3#2) : decode (.cmd true w id ep) = .ok (.listPorts id) := by
  simp [decode, decodeCommand, h]

end

/-- Settles O39: each value of the operation field selects its operation, and a SEND's operands are its three fields. -/
theorem commandPortReadsItsFields : Obligations.CommandPortReadsItsFields := by
  intro w id ep
  refine ⟨fun send => ?_, fun opn => ?_, fun close => ?_, fun list => ?_⟩
  · rw [decode_cmd_send id ep ((cmdOp_eq_iff w 0#2).mpr send), cmdHouse_eq, cmdModule_eq, cmdOn_eq]
  · exact decode_cmd_open id ep ((cmdOp_eq_iff w 1#2).mpr opn)
  · exact decode_cmd_close id ep ((cmdOp_eq_iff w 2#2).mpr close)
  · exact decode_cmd_list id ep ((cmdOp_eq_iff w 3#2).mpr list)

end Sys2Proof
end

section
/-! The engine's steps in their enabled cases (41_engine.md R82 to R88): for each operation, that its guard suffices for
it to answer, and with which session. They are the other direction of the inversion lemmas of Laws/Steps.lean. -/

namespace Sys2Proof.Machine

/-! ## From a session to the machine -/

/-- Where an operation answers on the present session, `exec` replaces that session alone (10_state.md R34). -/
theorem exec_of_session_next {i : Instr} {s : State} {x y : Session}
    {f : Session → Host.Outcome Session Fault Refusal} (meaning : sessionMeaning s.undefinedCells i = some f)
    (cur : s.cur = some x) (answer : f x = .next y) : exec i s = .next (s.setCur y) := by
  simp only [exec_shape, meaning, State.onCur_of_cur cur, answer]

/-! ## FIFO reads and guards -/

/-- A FIFO read of a loaded cell goes on with the bit it holds. -/
theorem Session.withCell_defined {u : Nat → Bool} {x : Session} {a : Nat} {b : Bool}
    (k : Bool → Host.Outcome Session Fault Refusal) (loaded : a < x.wp) (inFifo : a < Config.fifoDepth)
    (value : Memory.read x.fmem a = some b) : x.withCell u a k = k b := by
  rw [Session.withCell, if_pos inFifo, Session.cellValue_defined loaded value]

theorem Session.bitExpiryDue_iff (x : Session) :
    x.bitExpiryDue = true ↔ x.phase = .sendingBit ∧ x.sub = .hold ∧ x.tmr = 0 := by
  simp [Session.bitExpiryDue, Session.expiryDue_iff]

theorem Session.syncExpiryDue_iff (x : Session) :
    x.syncExpiryDue = true ↔ x.phase = .synchronizing ∧ x.sub = .hold ∧ x.tmr = 0 := by
  simp [Session.syncExpiryDue, Session.expiryDue_iff]

/-- Nothing is urgent where no running counter is 0 (41_engine.md R91). -/
theorem Session.urgent_eq_false {x : Session} (hold : x.sub = .hold → 0 < x.tmr)
    (backoff : ∀ w ∈ x.waiters, 0 < w.bko) (warmup : ∀ id, x.sop = .warmup id → 0 < x.wtmr) :
    x.urgent = false := by
  rw [Bool.eq_false_iff, ne_eq, Session.urgent_iff]
  rintro (⟨holding, zero⟩ | ⟨w, mem, zero⟩ | ⟨id, warming, zero⟩)
  · exact (hold holding).ne' zero
  · exact (backoff w mem).ne' zero
  · exact (warmup id warming).ne' zero

/-! ## The operations on one session -/

/-- XMIT on an engine that is not busy: the room for a waiter is not asked (41_engine.md R82, R83). -/
theorem Session.xmit_idle {x : Session} (id : Tag) {b : Bool} {bs : Bits} (notBusy : x.busy = false)
    (fits : (b :: bs).length ≤ Config.fifoDepth) : x.xmit id (b :: bs) = .next (x.accept id b bs) := by
  rw [Session.xmit, if_neg (by simp [notBusy]), Session.transmit_idle x id b bs fits notBusy]

section AckOk
variable {u : Nat → Bool} {x : Session} (outstanding : x.lineSetOutstanding = true) (connected : x.connected = true)
include outstanding connected

/-- ACK.OK to a bit's line-set (41_engine.md R85). -/
theorem Session.ackOk_bit {b : Bool} (phase : x.phase = .sendingBit) (loaded : x.rp < x.wp)
    (inFifo : x.rp < Config.fifoDepth) (value : Memory.read x.fmem x.rp = some b) :
    x.ackOk u =
      .next (Session.record { x with lineQ := some (sym b), tmr := Config.bitTicks, sub := .hold } .ackOk) := by
  rw [Session.ackOk, if_neg (by simp [outstanding]), if_neg (by simp [connected]), if_pos phase,
    Session.withCell_defined _ loaded inFifo value]

/-- ACK.OK to a SYNC line-set (41_engine.md R85). -/
theorem Session.ackOk_sync (phase : x.phase ≠ .sendingBit) :
    x.ackOk u =
      .next (Session.record { x with lineQ := some syncSymbol, tmr := Config.bitTicks, sub := .hold } .ackOk) := by
  rw [Session.ackOk, if_neg (by simp [outstanding]), if_neg (by simp [connected]), if_neg phase]

end AckOk

/-- TICK where nothing is urgent (41_engine.md R86, R91). -/
theorem Session.tick_of_not_urgent {x : Session} (quiet : x.urgent = false) :
    x.tick = .next { x with
      tmr := if x.sub = .hold then x.tmr - 1 else x.tmr
      waiters := x.waiters.map fun w => { w with bko := w.bko - 1 }
      wtmr := if x.warming then x.wtmr - 1 else x.wtmr
      ticks := x.ticks + 1 } := by
  rw [Session.tick, if_neg (by simp [quiet])]

/-- EXPIRE.BIT in its guard (41_engine.md R87). -/
theorem Session.expireBit_due {x : Session} (due : x.bitExpiryDue = true) :
    x.expireBit =
      .next (Session.record { x with phase := .synchronizing, sub := .waitAck } (.lineSet syncSymbol)) := by
  rw [Session.expireBit, if_neg (by simp [due])]

section ExpireSync
variable {u : Nat → Bool} {x : Session} (due : x.syncExpiryDue = true)
include due

/-- EXPIRE.SYNC with a bit left to send (41_engine.md R88). -/
theorem Session.expireSync_advance {b : Bool} (left : x.rp + 1 < x.wp) (inFifo : x.rp + 1 < Config.fifoDepth)
    (value : Memory.read x.fmem (x.rp + 1) = some b) :
    x.expireSync u =
      .next (Session.record { x with rp := x.rp + 1, phase := .sendingBit, sub := .waitAck } (.lineSet (sym b))) := by
  rw [Session.expireSync, if_neg (by simp [due]), if_pos left, Session.withCell_defined _ left inFifo value]

/-- EXPIRE.SYNC with the sequence exhausted (41_engine.md R88). -/
theorem Session.expireSync_complete {id : Tag} (exhausted : ¬ x.rp + 1 < x.wp) (owner : x.owner = some id) :
    x.expireSync u = .next ((x.release .idle).record (.complete id .ok .nothing)) := by
  rw [Session.expireSync, if_neg (by simp [due]), if_neg exhausted, owner, Session.reportOwner_some]

end ExpireSync

/-! ## The statements -/

/-- Settles O9: the session's answer is `accept`, whose fields are those of the statement. -/
theorem xmitAcceptsWhenNotBusy : Obligations.XmitAcceptsWhenNotBusy := by
  intro s x id b bs cur notBusy fits
  exact exec_of_session_next rfl cur (Session.xmit_idle id notBusy fits)

/-- Settles O13: in SENDING_BIT the symbol is that of the loaded cell at `rp`, in any other phase it is SYNC. -/
theorem ackOkStartsTheHold : Obligations.AckOkStartsTheHold := by
  intro s x ep cur busy sub conn
  have outstanding : x.lineSetOutstanding = true := x.lineSetOutstanding_iff.mpr ⟨busy, sub⟩
  have connected : x.connected = true := x.connected_iff.mpr ⟨ep, conn⟩
  constructor
  · intro b phase loaded inFifo value
    exact exec_of_session_next rfl cur (Session.ackOk_bit outstanding connected phase loaded inFifo value)
  · intro phase
    exact exec_of_session_next rfl cur (Session.ackOk_sync outstanding connected phase)

/-- Settles O15: running counters above 0 leave nothing urgent, so TICK answers; whether the warm-up counter runs is
read off `sop`. -/
theorem tickDecrementsRunningCounters : Obligations.TickDecrementsRunningCounters := by
  intro s x cur hold backoff warmup
  have quiet : x.urgent = false := Session.urgent_eq_false hold backoff warmup
  rw [exec_of_session_next rfl cur (Session.tick_of_not_urgent quiet), Session.warming]
  cases x.sop <;> rfl

/-- Settles O17: the three conditions are EXPIRE.BIT's guard. -/
theorem expireBitIssuesSync : Obligations.ExpireBitIssuesSync := by
  intro s x cur phase sub tmr
  exact exec_of_session_next rfl cur (Session.expireBit_due (x.bitExpiryDue_iff.mpr ⟨phase, sub, tmr⟩))

/-- Settles O18: the guard holds in both cases, and whether a bit is left at `rp + 1` picks the branch. -/
theorem expireSyncAdvancesOrCompletes : Obligations.ExpireSyncAdvancesOrCompletes := by
  intro s x cur phase sub tmr
  have due : x.syncExpiryDue = true := x.syncExpiryDue_iff.mpr ⟨phase, sub, tmr⟩
  constructor
  · intro b left inFifo value
    exact exec_of_session_next rfl cur (Session.expireSync_advance due left inFifo value)
  · intro id exhausted owner
    exact exec_of_session_next rfl cur (Session.expireSync_complete due exhausted owner)

end Sys2Proof.Machine
end

section
/-! The session operations in their enabled cases (42_session.md R110, R113, R114): OPEN and CLOSE by the connection
held, and the transport's open success. -/

namespace Sys2Proof.Machine

section OpenAndClose
variable {x : Session} (id : Tag) (free : x.sop = .idle)
include free

section Open
variable (ep : Endpoint) (notBusy : x.busy = false) (noWaiters : x.waiters = [])
include notBusy noWaiters

/-- OPEN with no connection held goes to the transport at once (42_session.md R113). -/
theorem Session.openAt_closed (closed : x.conn = .closed) :
    x.openAt id ep = .next (Session.record { x with sop := .openWait id ep } (.topenReq ep)) := by
  rw [Session.openAt, if_neg (by simp [free]), if_neg (by simp [notBusy, noWaiters]), closed]

/-- OPEN over a held connection, to whichever endpoint, closes it first (42_session.md R113). -/
theorem Session.openAt_held {held : Endpoint} (conn : x.conn = .openAt held) :
    x.openAt id ep = .next (Session.record { x with sop := .closeWait id (.thenOpen ep) } .tcloseReq) := by
  rw [Session.openAt, if_neg (by simp [free]), if_neg (by simp [notBusy, noWaiters]), conn]

end Open

/-- CLOSE with no connection held is complete without the transport (42_session.md R110). -/
theorem Session.close_closed (closed : x.conn = .closed) : x.close id = .next (x.succeed id .nothing) := by
  rw [Session.close, if_neg (by simp [free]), closed]

/-- CLOSE of a held connection asks the transport (42_session.md R110). -/
theorem Session.close_held {held : Endpoint} (conn : x.conn = .openAt held) :
    x.close id = .next (Session.record { x with sop := .closeWait id .done } .tcloseReq) := by
  rw [Session.close, if_neg (by simp [free]), conn]

end OpenAndClose

/-- TOPEN.OK to an outstanding open request (42_session.md R114). -/
theorem Session.topenOk_waiting {x : Session} {id : Tag} {ep : Endpoint} (waiting : x.sop = .openWait id ep) :
    x.topenOk = .next
      (Session.record { x with conn := .openAt ep, sop := .warmup id, wtmr := Config.warmupTicks } .topenOk) := by
  rw [Session.topenOk, waiting]

/-- Settles O26: both guards of OPEN pass, and the connection held picks the request. -/
theorem openClosesFirst : Obligations.OpenClosesFirst := by
  intro s x id ep cur free notBusy noWaiters
  constructor
  · intro closed
    exact exec_of_session_next rfl cur (Session.openAt_closed id free ep notBusy noWaiters closed)
  · intro held conn
    exact exec_of_session_next rfl cur (Session.openAt_held id free ep notBusy noWaiters conn)

/-- Settles O28: CLOSE's one guard passes in any engine state, and the connection held picks the answer. -/
theorem closeIsIdempotent : Obligations.CloseIsIdempotent := by
  intro s x id cur free
  constructor
  · intro closed
    exact exec_of_session_next rfl cur (Session.close_closed id free closed)
  · intro held conn
    exact exec_of_session_next rfl cur (Session.close_held id free conn)

/-- Settles O30: the answer's one entry in the history is its own, and the warm-up is 500 bit times by definition. -/
theorem topenOkStartsTheWarmup : Obligations.TopenOkStartsTheWarmup := by
  intro s x id ep cur waiting
  exact exec_of_session_next rfl cur (Session.topenOk_waiting waiting)

end Sys2Proof.Machine
end

section
/-! The round trip of the encoding over all operations (30_encoding.md sections 4 and 6). -/

namespace Sys2Proof

/-- Settles O38: operation by operation, from the round trips of Laws/PerInstr.lean. -/
theorem decodeReadsBackEveryEncoding : Obligations.DecodeReadsBackEveryEncoding := by
  intro i
  cases i with
  | create => exact Laws.RoundTrip.create
  | send id h m o => exact Laws.RoundTrip.send id h m o
  | openSession id ep => exact Laws.RoundTrip.openSession id ep
  | closeSession id => exact Laws.RoundTrip.closeSession id
  | listPorts id => exact Laws.RoundTrip.listPorts id
  | housecode h => exact Laws.RoundTrip.housecode h
  | modulecode m => exact Laws.RoundTrip.modulecode m
  | encodeCommand h m o => exact Laws.RoundTrip.encodeCommand h m o
  | frameOn h m => exact Laws.RoundTrip.frameOn h m
  | frameOff h m => exact Laws.RoundTrip.frameOff h m
  | xmit id s => exact Laws.RoundTrip.xmit id s
  | symOne => exact Laws.RoundTrip.symOne
  | symZero => exact Laws.RoundTrip.symZero
  | symSync => exact Laws.RoundTrip.symSync
  | ackOk => exact Laws.RoundTrip.ackOk
  | ackFail e => exact Laws.RoundTrip.ackFail e
  | tick => exact Laws.RoundTrip.tick
  | expireBit => exact Laws.RoundTrip.expireBit
  | expireSync => exact Laws.RoundTrip.expireSync
  | retry w => exact Laws.RoundTrip.retry w
  | topenOk => exact Laws.RoundTrip.topenOk
  | topenFail e => exact Laws.RoundTrip.topenFail e
  | tcloseOk => exact Laws.RoundTrip.tcloseOk
  | tcloseFail e => exact Laws.RoundTrip.tcloseFail e
  | warmdone => exact Laws.RoundTrip.warmdone
  | tlistOk id l => exact Laws.RoundTrip.tlistOk id l
  | tlistFail id e => exact Laws.RoundTrip.tlistFail id e

end Sys2Proof
end

section
/-! What a step of one session can do, said once over all operations (10_state.md R30, R34): the engine's steps case by
case, and all that happens beside the engine as one case. The statements about every step are case splits on
`Session.Effect`. -/

namespace Sys2Proof.Machine

/-! ## Reports -/

section Reports
variable (x : Session) (owner : Option Tag) (k : Status) (i : Info)
@[simp] theorem Session.reportOwner_busy : (x.reportOwner owner k i).busy = x.busy := by cases owner <;> rfl
@[simp] theorem Session.reportOwner_rp : (x.reportOwner owner k i).rp = x.rp := by cases owner <;> rfl
@[simp] theorem Session.reportOwner_wp : (x.reportOwner owner k i).wp = x.wp := by cases owner <;> rfl
@[simp] theorem Session.reportOwner_sop : (x.reportOwner owner k i).sop = x.sop := by cases owner <;> rfl

/-- A report is no line-set. -/
@[simp] theorem Session.reportOwner_lineSets : lineSets (x.reportOwner owner k i).hist = lineSets x.hist := by
  cases owner <;> simp [Session.reportOwner, Event.lineSymbol]

/-- A report is at most one entry. -/
theorem Session.reportOwner_hist :
    ∃ new, (x.reportOwner owner k i).hist = x.hist ++ new ∧ new.length ≤ 1 ∧ ∀ e ∈ new, e.tick = x.ticks := by
  cases owner with
  | none => exact ⟨[], by simp⟩
  | some id => exact ⟨[⟨x.ticks, .complete id k i⟩], by simp⟩

end Reports

/-! ## Beside the engine -/

/-- The clauses of R32 (g) and of the warm-up counter, which speak of `sop`, `conn` and `wtmr` only. -/
structure Session.SopInv (x : Session) : Prop where
  warmupHeld : ∀ id, x.sop = .warmup id → (∃ ep, x.conn = .openAt ep) ∧ x.wtmr ≤ Config.warmupTicks
  openWaitClosed : ∀ id ep, x.sop = .openWait id ep → x.conn = .closed
  closeWaitHeld : ∀ id next, x.sop = .closeWait id next → ∃ ep, x.conn = .openAt ep
  wtmrIdle : (∀ id, x.sop ≠ .warmup id) → x.wtmr = 0

theorem Session.Inv.sopInv {x : Session} (inv : x.Inv) : x.SopInv :=
  ⟨inv.warmupHeld, inv.openWaitClosed, inv.closeWaitHeld, inv.wtmrIdle⟩

/-- The clauses read nothing but `sop`, `conn` and `wtmr`. -/
theorem Session.SopInv.congr {x y : Session} (inv : x.SopInv) (sop : y.sop = x.sop) (conn : y.conn = x.conn)
    (wtmr : y.wtmr = x.wtmr) : y.SopInv := by
  obtain ⟨warmup, opening, closing, idle⟩ := inv
  constructor <;> simpa only [sop, conn, wtmr]

/-- With no session operation in progress the clauses only ask for `wtmr = 0`. -/
theorem Session.SopInv.of_idle {y : Session} (sop : y.sop = .idle) (wtmr : y.wtmr = 0) : y.SopInv := by
  constructor <;> simp [sop, wtmr]

/-- The step that leads from `x` to `y` touches no engine element, no waiter and no tick count, and records at most two
events, none of a line-set. -/
structure Session.BesideEngine (x y : Session) : Prop where
  engine : x.sameEngine y
  waiters : y.waiters = x.waiters
  ticks : y.ticks = x.ticks
  hist : ∃ new, y.hist = x.hist ++ new ∧ new.length ≤ 2 ∧
    ∀ e ∈ new, e.tick = x.ticks ∧ e.event.lineSymbol = none ∧ e.event.isLineAnswer = false

/-! ## The cases of a step -/

/-- `Calls i x id s ws`: the operation `i` calls `transmit(id, s)` on the session `x`, whose pool it has left at `ws`
(41_engine.md R82, R90, 42_session.md R107). -/
inductive Session.Calls (x : Session) : Instr → Tag → Bits → List Waiter → Prop
  | send (id : Tag) (h m : Int) (o : Bool) (f : Bits) (notOpening : x.openInProgress = false)
      (room : x.busy = true → x.hasRoom = true) : Calls x (.send id h m o) id f x.waiters
  | xmit (id : Tag) (s : Bits) (room : x.busy = true → x.hasRoom = true) : Calls x (.xmit id s) id s x.waiters
  | retry (w : Waiter) (mem : w ∈ x.waiters) : Calls x (.retry w) w.id w.bits (x.waiters.erase w)

/-- Cases that cover all that the operation `i` can do to the session it belongs to (`effect_of_meaning`); `u` gives
the free values of undefined cells. -/
inductive Session.Effect (u : Nat → Bool) (x : Session) : Instr → Session → Prop
  | create : Effect u x .create Session.reset
  | accept {i : Instr} {id : Tag} {b : Bool} {bs : Bits} {ws : List Waiter} (call : x.Calls i id (b :: bs) ws)
      (notBusy : x.busy = false) (fits : (b :: bs).length ≤ Config.fifoDepth) :
      Effect u x i (Session.accept { x with waiters := ws } id b bs)
  | defer {i : Instr} {id : Tag} {s : Bits} {ws : List Waiter} (call : x.Calls i id s ws) (busy : x.busy = true)
      (nonempty : 1 ≤ s.length) (fits : s.length ≤ Config.fifoDepth) :
      Effect u x i (Session.defer { x with waiters := ws } id s)
  | ackOk {l : LineState} (busy : x.busy = true) (waiting : x.sub = .waitAck)
      (symbol : x.phase ≠ .sendingBit → l = syncSymbol) :
      Effect u x .ackOk (Session.record { x with lineQ := some l, tmr := Config.bitTicks, sub := .hold } .ackOk)
  | ackFail (e : TransportError) (busy : x.busy = true) (waiting : x.sub = .waitAck) :
      Effect u x (.ackFail e) (Session.reportOwner
        (Session.record { x.release .failed with tmr := 0, lineQ := none } (.ackFail e))
        x.owner .transportSetLinesFailure (.error e))
  | tick : Effect u x .tick
      { x with
        tmr := if x.sub = .hold then x.tmr - 1 else x.tmr
        waiters := x.waiters.map fun w => { w with bko := w.bko - 1 }
        wtmr := if x.warming then x.wtmr - 1 else x.wtmr
        ticks := x.ticks + 1 }
  | expireBit (phase : x.phase = .sendingBit) (holding : x.sub = .hold) (ended : x.tmr = 0) :
      Effect u x .expireBit
        (Session.record { x with phase := .synchronizing, sub := .waitAck } (.lineSet syncSymbol))
  | advance (phase : x.phase = .synchronizing) (holding : x.sub = .hold) (ended : x.tmr = 0)
      (left : x.rp + 1 < x.wp) :
      Effect u x .expireSync (Session.record { x with rp := x.rp + 1, phase := .sendingBit, sub := .waitAck }
        (.lineSet (sym (x.cellValue u (x.rp + 1)))))
  | complete (phase : x.phase = .synchronizing) (holding : x.sub = .hold) (ended : x.tmr = 0)
      (exhausted : ¬ x.rp + 1 < x.wp) :
      Effect u x .expireSync (Session.reportOwner (x.release .idle) x.owner .ok .nothing)
  | aside {i : Instr} {y : Session} (noTick : i ≠ .tick) (frame : x.BesideEngine y) (sop : x.SopInv → y.SopInv)
      (opens : y.openInProgress = true → x.openInProgress = true ∨ x.busy = false ∧ x.waiters = []) : Effect u x i y

/-! ## The session operations are beside the engine -/

section Records
variable (x : Session) (conn : Conn) (sop : Sop) (wtmr : Nat) (lpend : List Tag) {e f : Event}
  (quiet : e.lineSymbol = none ∧ e.isLineAnswer = false)
include quiet

theorem Session.besideEngine_record :
    x.BesideEngine (Session.record { x with conn := conn, sop := sop, wtmr := wtmr, lpend := lpend } e) :=
  ⟨⟨rfl, rfl, rfl, rfl, rfl, rfl, rfl, rfl, rfl⟩, rfl, rfl, [⟨x.ticks, e⟩], rfl, by simp, by simpa using quiet⟩

theorem Session.besideEngine_record_record (quiet' : f.lineSymbol = none ∧ f.isLineAnswer = false) :
    x.BesideEngine
      ((Session.record { x with conn := conn, sop := sop, wtmr := wtmr, lpend := lpend } e).record f) :=
  ⟨⟨rfl, rfl, rfl, rfl, rfl, rfl, rfl, rfl, rfl⟩, rfl, rfl, [⟨x.ticks, e⟩, ⟨x.ticks, f⟩], by simp, by simp,
    by simpa using ⟨quiet, quiet'⟩⟩

end Records

theorem Session.besideEngine_refl (x : Session) : x.BesideEngine x :=
  ⟨⟨rfl, rfl, rfl, rfl, rfl, rfl, rfl, rfl, rfl⟩, rfl, rfl, [], by simp, by simp, by simp⟩

theorem Session.openInProgress_congr {x y : Session} (sop : y.sop = x.sop) :
    y.openInProgress = x.openInProgress := by
  rw [Session.openInProgress, Session.openInProgress, sop]

section
variable {u : Nat → Bool} {x y : Session}

/-- A step beside the engine that leaves the session operation, the connection and the warm-up counter. -/
theorem Session.Effect.aside_of_sop_same {i : Instr} (noTick : i ≠ .tick) (frame : x.BesideEngine y)
    (sop : y.sop = x.sop) (conn : y.conn = x.conn) (wtmr : y.wtmr = x.wtmr) : x.Effect u i y :=
  .aside noTick frame (fun inv => inv.congr sop conn wtmr)
    (fun opening => .inl (Session.openInProgress_congr sop ▸ opening))

/-- A step beside the engine that ends the session operation `x` is in, whose warm-up, if it is one, is over. -/
theorem Session.Effect.aside_of_sop_ends {i : Instr} (noTick : i ≠ .tick) (frame : x.BesideEngine y)
    (sop : y.sop = .idle) (wtmr : x.SopInv → y.wtmr = 0) : x.Effect u i y :=
  .aside noTick frame (fun inv => .of_idle sop (wtmr inv)) (by simp [Session.openInProgress, sop])

/-- OPEN starts a session operation only where nothing is in flight or deferred (42_session.md R113, R118). -/
theorem Session.effect_of_openAt {id : Tag} {ep : Endpoint} (h : x.openAt id ep = .next y) :
    x.Effect u (.openSession id ep) y := by
  obtain ⟨free, notBusy, noWaiters, ⟨closed, rfl⟩ | ⟨held, rfl⟩⟩ := Session.openAt_next h
  · refine .aside (by simp) (Session.besideEngine_record x _ _ _ _ ⟨rfl, rfl⟩) (fun inv => ?_)
      fun _ => .inr ⟨notBusy, noWaiters⟩
    constructor <;> simp [closed, inv.wtmrIdle, free]
  · refine .aside (by simp) (Session.besideEngine_record x _ _ _ _ ⟨rfl, rfl⟩) (fun inv => ?_)
      fun _ => .inr ⟨notBusy, noWaiters⟩
    constructor <;> simp [held, inv.wtmrIdle, free]

theorem Session.effect_of_close {id : Tag} (h : x.close id = .next y) : x.Effect u (.closeSession id) y := by
  obtain ⟨free, ⟨-, rfl⟩ | ⟨held, rfl⟩⟩ := Session.close_next h
  · exact .aside_of_sop_same (by simp) (Session.besideEngine_record x _ _ _ _ ⟨rfl, rfl⟩) rfl rfl rfl
  · refine .aside (by simp) (Session.besideEngine_record x _ _ _ _ ⟨rfl, rfl⟩) (fun inv => ?_)
      (by simp [Session.openInProgress])
    constructor <;> simp [held, inv.wtmrIdle, free]

theorem Session.effect_of_list {id : Tag} (h : x.list id = .next y) : x.Effect u (.listPorts id) y := by
  obtain rfl := Session.list_next h
  exact .aside_of_sop_same (by simp) (Session.besideEngine_record x _ _ _ _ ⟨rfl, rfl⟩) rfl rfl rfl

theorem Session.effect_of_topenOk (h : x.topenOk = .next y) : x.Effect u .topenOk y := by
  obtain ⟨id, ep, opening, rfl⟩ := Session.topenOk_next h
  refine .aside (by simp) (Session.besideEngine_record x _ _ _ _ ⟨rfl, rfl⟩) (fun inv => ?_)
    fun _ => .inl (by simp [Session.openInProgress, opening])
  constructor <;> simp

theorem Session.effect_of_topenFail {e : TransportError} (h : x.topenFail e = .next y) :
    x.Effect u (.topenFail e) y := by
  obtain ⟨id, ep, opening, rfl⟩ := Session.topenFail_next h
  exact .aside_of_sop_ends (by simp) (Session.besideEngine_record_record x _ _ _ _ ⟨rfl, rfl⟩ ⟨rfl, rfl⟩) rfl
    fun inv => inv.wtmrIdle (by simp [opening])

theorem Session.effect_of_tcloseOk (h : x.tcloseOk = .next y) : x.Effect u .tcloseOk y := by
  obtain ⟨id, closing, rfl⟩ | ⟨id, ep, closing, rfl⟩ := Session.tcloseOk_next h
  · exact .aside_of_sop_ends (by simp) (Session.besideEngine_record_record x _ _ _ _ ⟨rfl, rfl⟩ ⟨rfl, rfl⟩) rfl
      fun inv => inv.wtmrIdle (by simp [closing])
  · refine .aside (by simp) (Session.besideEngine_record_record x _ _ _ _ ⟨rfl, rfl⟩ ⟨rfl, rfl⟩) (fun inv => ?_)
      fun _ => .inl (by simp [Session.openInProgress, closing])
    constructor <;> simp [inv.wtmrIdle, closing]

theorem Session.effect_of_tcloseFail {e : TransportError} (h : x.tcloseFail e = .next y) :
    x.Effect u (.tcloseFail e) y := by
  obtain ⟨id, next, closing, rfl⟩ := Session.tcloseFail_next h
  exact .aside_of_sop_ends (by simp) (Session.besideEngine_record_record x _ _ _ _ ⟨rfl, rfl⟩ ⟨rfl, rfl⟩) rfl
    fun inv => inv.wtmrIdle (by simp [closing])

theorem Session.effect_of_warmdone (h : x.warmdone = .next y) : x.Effect u .warmdone y := by
  obtain ⟨id, -, ended, rfl⟩ := Session.warmdone_next h
  exact .aside_of_sop_ends (by simp) (Session.besideEngine_record x _ _ _ _ ⟨rfl, rfl⟩) rfl fun _ => ended

theorem Session.effect_of_tlistOk {id : Tag} {l : List PortRecord} (h : x.tlistOk id l = .next y) :
    x.Effect u (.tlistOk id l) y := by
  obtain ⟨-, rfl⟩ := Session.tlistOk_next h
  exact .aside_of_sop_same (by simp) (Session.besideEngine_record_record x _ _ _ _ ⟨rfl, rfl⟩ ⟨rfl, rfl⟩) rfl rfl rfl

theorem Session.effect_of_tlistFail {id : Tag} {e : TransportError} (h : x.tlistFail id e = .next y) :
    x.Effect u (.tlistFail id e) y := by
  obtain ⟨-, rfl⟩ := Session.tlistFail_next h
  exact .aside_of_sop_same (by simp) (Session.besideEngine_record_record x _ _ _ _ ⟨rfl, rfl⟩ ⟨rfl, rfl⟩) rfl rfl rfl

/-! ## The engine's operations -/

/-- A call of `transmit` accepts or defers (41_engine.md R82). -/
theorem Session.Calls.effect {i : Instr} {id : Tag} {s : Bits} {ws : List Waiter} (call : x.Calls i id s ws)
    (h : Session.transmit { x with waiters := ws } id s = .next y) : x.Effect u i y := by
  obtain ⟨nonempty, fits, ⟨busy, rfl⟩ | ⟨notBusy, b, bs, rfl, rfl⟩⟩ := Session.transmit_next h
  · exact .defer call busy nonempty fits
  · exact .accept call notBusy fits

theorem Session.effect_of_xmit {id : Tag} {s : Bits} (h : x.xmit id s = .next y) : x.Effect u (.xmit id s) y := by
  obtain ⟨answer, room⟩ := Session.xmit_next h
  exact (Session.Calls.xmit id s room).effect answer

theorem Session.effect_of_retry {w : Waiter} (h : x.retry w = .next y) : x.Effect u (.retry w) y := by
  obtain ⟨mem, -, answer⟩ := Session.retry_next h
  exact (Session.Calls.retry w mem).effect answer

/-- SEND reports an invalid index beside the engine, and calls `transmit` on a valid command (42_session.md R107). -/
theorem Session.effect_of_send {id : Tag} {h m : Int} {o : Bool} (hs : x.send id h m o = .next y) :
    x.Effect u (.send id h m o) y := by
  obtain ⟨notOpening, ⟨e, -, rfl⟩ | ⟨f, -, room, answer⟩⟩ := Session.send_next hs
  · exact .aside_of_sop_same (by simp) (Session.besideEngine_record x _ _ _ _ ⟨rfl, rfl⟩) rfl rfl rfl
  · exact (Session.Calls.send id h m o f notOpening room).effect answer

theorem Session.effect_of_ackOk (h : x.ackOk u = .next y) : x.Effect u .ackOk y := by
  obtain ⟨busy, waiting, -, l, rfl, ⟨bit, -⟩ | ⟨-, symbol⟩⟩ := Session.ackOk_next h
  · exact .ackOk busy waiting fun other => absurd bit other
  · exact .ackOk busy waiting fun _ => symbol

theorem Session.effect_of_ackFail {e : TransportError} (h : x.ackFail e = .next y) : x.Effect u (.ackFail e) y := by
  obtain ⟨busy, waiting, rfl⟩ := Session.ackFail_next h
  exact .ackFail e busy waiting

theorem Session.effect_of_tick (h : x.tick = .next y) : x.Effect u .tick y := by
  obtain ⟨-, rfl⟩ := Session.tick_next h
  exact .tick

theorem Session.effect_of_expireBit (h : x.expireBit = .next y) : x.Effect u .expireBit y := by
  obtain ⟨phase, holding, ended, rfl⟩ := Session.expireBit_next h
  exact .expireBit phase holding ended

theorem Session.effect_of_expireSync (h : x.expireSync u = .next y) : x.Effect u .expireSync y := by
  obtain ⟨phase, holding, ended, ⟨left, -, rfl⟩ | ⟨exhausted, rfl⟩⟩ := Session.expireSync_next h
  · exact .advance phase holding ended left
  · exact .complete phase holding ended exhausted

/-! ## All operations -/

/-- The evaluations of encoder functions and symbols belong to no session and leave the selected one as it is. -/
theorem Session.effect_of_evaluation {i : Instr} (meaning : sessionMeaning u i = none) : x.Effect u i x :=
  .aside_of_sop_same (by rintro rfl; cases meaning) x.besideEngine_refl rfl rfl rfl

/-- Every answer of an operation to its session is one of the cases. -/
theorem Session.effect_of_meaning {i : Instr} {f : Session → Host.Outcome Session Fault Refusal}
    (meaning : sessionMeaning u i = some f) (answer : f x = .next y) : x.Effect u i y := by
  cases i <;> cases meaning
  case create => cases answer; exact .create
  case send => exact Session.effect_of_send answer
  case openSession => exact Session.effect_of_openAt answer
  case closeSession => exact Session.effect_of_close answer
  case listPorts => exact Session.effect_of_list answer
  case xmit => exact Session.effect_of_xmit answer
  case ackOk => exact Session.effect_of_ackOk answer
  case ackFail => exact Session.effect_of_ackFail answer
  case tick => exact Session.effect_of_tick answer
  case expireBit => exact Session.effect_of_expireBit answer
  case expireSync => exact Session.effect_of_expireSync answer
  case retry => exact Session.effect_of_retry answer
  case topenOk => exact Session.effect_of_topenOk answer
  case topenFail => exact Session.effect_of_topenFail answer
  case tcloseOk => exact Session.effect_of_tcloseOk answer
  case tcloseFail => exact Session.effect_of_tcloseFail answer
  case warmdone => exact Session.effect_of_warmdone answer
  case tlistOk => exact Session.effect_of_tlistOk answer
  case tlistFail => exact Session.effect_of_tlistFail answer

end

/-- What `exec` does to the selected session. -/
theorem effect_of_exec {i : Instr} {s t : State} {x y : Session} (cur : s.cur = some x) (answer : exec i s = .next t)
    (cur' : t.cur = some y) : x.Effect s.undefinedCells i y := by
  obtain ⟨evaluation, rfl⟩ | ⟨f, x', y', meaning, hx, hy, rfl⟩ := exec_next answer
  · obtain rfl : x = y := Option.some.inj (cur.symm.trans cur')
    exact Session.effect_of_evaluation evaluation
  · obtain rfl : x = x' := Option.some.inj (cur.symm.trans hx)
    obtain rfl : y' = y := Option.some.inj ((State.cur_setCur s y' x cur).symm.trans cur')
    exact Session.effect_of_meaning meaning hy

/-! ## Invariants of every session -/

/-- After a step every session is one from before, or the outcome of an operation on one from before. -/
theorem effect_of_step {s t : State} (h : step s = .next t) {y : Session} (hy : y ∈ t.sessions) :
    y ∈ s.sessions ∨ ∃ x ∈ s.sessions, ∃ u i, x.Effect u i y := by
  unfold step at h
  split at h
  · cases h
  · split at h
    · cases h
    · obtain ⟨-, rfl⟩ | ⟨f, x, z, meaning, hx, hz, rfl⟩ := exec_next h
      · exact .inl hy
      · obtain rfl | old := State.mem_setCur _ _ _ hy
        · exact .inr ⟨x, State.cur_mem (s.begin _ _) x hx, _, _, Session.effect_of_meaning meaning hz⟩
        · exact .inl old

/-- What every operation keeps on one session, every step keeps on all of them. -/
theorem step_keeps {P : Session → Prop} (keeps : ∀ {u i x y}, P x → x.Effect u i y → P y) {s t : State}
    (hs : ∀ x ∈ s.sessions, P x) (h : step s = .next t) : ∀ y ∈ t.sessions, P y := by
  intro y hy
  obtain old | ⟨x, hx, u, i, effect⟩ := effect_of_step h hy
  · exact hs y old
  · exact keeps (hs x hx) effect

end Sys2Proof.Machine
end

section
/-! The invariants of 10_state.md R32, kept by every case of a step. -/

namespace Sys2Proof.Machine

/-! ## What a step beside the engine leaves -/

section
variable {x y : Session} (frame : x.BesideEngine y)
include frame

/-- A step beside the engine issues no line-set. -/
theorem Session.BesideEngine.lineSets_eq : lineSets y.hist = lineSets x.hist := by
  obtain ⟨new, hist, -, quiet⟩ := frame.hist
  have none_new : lineSets new = [] := List.filterMap_eq_nil_iff.mpr fun e he => (quiet e he).2.1
  rw [hist, lineSets_append, none_new, List.append_nil]

/-- A step beside the engine takes no answer to a line-set. -/
theorem Session.BesideEngine.lineAnswers_eq : lineAnswers y.hist = lineAnswers x.hist := by
  obtain ⟨new, hist, -, quiet⟩ := frame.hist
  have none_new : lineAnswers new = 0 := List.countP_eq_zero.mpr fun e he => by simp [(quiet e he).2.2]
  rw [hist, lineAnswers_append, none_new, Nat.add_zero]

theorem Session.BesideEngine.keeps_inv (sop : x.SopInv → y.SopInv) (inv : x.Inv) : y.Inv := by
  obtain ⟨⟨phase, sub, busy, fmem, wp, rp, tmr, owner, lineQ⟩, waiters, -, -⟩ := id frame
  obtain ⟨warmup, opening, closing, wtmr⟩ := sop inv.sopInv
  exact {
    pointers := by rw [rp, wp]; exact inv.pointers
    busy_iff := by rw [busy, phase]; exact inv.busy_iff
    idle := by rw [busy, rp, wp, sub, tmr, owner]; exact inv.idle
    inFlight := by rw [busy, rp, wp, owner]; exact inv.inFlight
    waiting := by rw [sub, tmr]; exact inv.waiting
    holding := by rw [sub, tmr, busy]; exact inv.holding
    waiterRanges := by rw [waiters]; exact inv.waiterRanges
    waiterPool := by rw [waiters]; exact inv.waiterPool
    warmupHeld := warmup
    openWaitClosed := opening
    closeWaitHeld := closing
    wtmrIdle := wtmr
    oneOutstanding := by
      rw [frame.lineSets_eq, frame.lineAnswers_eq, Session.lineSetOutstanding, busy, sub]
      exact inv.oneOutstanding
    syncHeld := by rw [phase, sub, lineQ]; exact inv.syncHeld
    fifoForm := by rw [fmem]; exact inv.fifoForm
    fifoLoaded := by rw [fmem, wp]; exact inv.fifoLoaded }

end

/-! ## The pool -/

section
variable {x : Session} {i : Instr} {id : Tag} {s : Bits} {ws : List Waiter} (call : x.Calls i id s ws)
include call

/-- A call of `transmit` leaves no waiter in the pool that was not there. -/
theorem Session.Calls.sublist : ws.Sublist x.waiters := by
  cases call with
  | send | xmit => exact .refl _
  | retry => exact List.erase_sublist

/-- On a busy engine every call has left room for the waiter it defers: SEND and XMIT have tested it, RETRY has taken
its own waiter out (41_engine.md R84). -/
theorem Session.Calls.room (busy : x.busy = true) {n : Nat} (bound : Config.maxWaiters = some n)
    (pool : x.waiters.length ≤ n) : ws.length + 1 ≤ n := by
  have tested (room : x.busy = true → x.hasRoom = true) : x.waiters.length + 1 ≤ n := by
    simpa [Session.hasRoom, bound] using room busy
  cases call with
  | send _ _ _ _ _ _ room => exact tested room
  | xmit _ _ room => exact tested room
  | retry w mem =>
    have := List.length_pos_of_mem mem
    rw [List.length_erase_of_mem mem]
    omega

end

/-! ## One session, case by case -/

theorem Session.inv_reset : Session.reset.Inv := by
  constructor <;> simp [Session.reset, Session.lineSetOutstanding, lineAnswers, Memory.wf]

/-- After an accept the cells below `wp` hold the sequence (20_memory.md R43). -/
theorem Session.read_accept (x : Session) (id : Tag) {b : Bool} {bs : Bits} {a : Nat}
    (inside : a < (b :: bs).length) : Memory.read (x.accept id b bs).fmem a = (b :: bs)[a]? := by
  rw [Session.accept_fmem, Memory.read_writeFrom, if_pos ⟨Nat.zero_le a, by omega⟩, Nat.sub_zero]

section
variable {x : Session}

theorem Session.not_outstanding_of_not_busy (notBusy : x.busy = false) : x.lineSetOutstanding = false := by
  simp [Session.lineSetOutstanding, notBusy]

theorem Session.not_outstanding_of_hold (holding : x.sub = .hold) : x.lineSetOutstanding = false := by
  simp [Session.lineSetOutstanding, holding]

variable (inv : x.Inv)
include inv

/-- R32 (h) with no line-set outstanding. -/
theorem Session.Inv.all_answered (settled : x.lineSetOutstanding = false) :
    (lineSets x.hist).length = lineAnswers x.hist := by
  simpa [settled] using inv.oneOutstanding

/-- R32 (h) with a line-set outstanding. -/
theorem Session.Inv.one_unanswered (busy : x.busy = true) (waiting : x.sub = .waitAck) :
    (lineSets x.hist).length = lineAnswers x.hist + 1 := by
  simpa [x.lineSetOutstanding_iff.mpr ⟨busy, waiting⟩] using inv.oneOutstanding

theorem Session.Inv.accept {ws : List Waiter} (sub : ws.Sublist x.waiters) (notBusy : x.busy = false) (id : Tag)
    {b : Bool} {bs : Bits} (fits : (b :: bs).length ≤ Config.fifoDepth) :
    (Session.accept { x with waiters := ws } id b bs).Inv where
  pointers := ⟨Nat.zero_le _, fits⟩
  busy_iff := by simp
  idle := by simp
  inFlight := by simp
  waiting := by simp
  holding := by simp
  waiterRanges w mem := inv.waiterRanges w (sub.subset mem)
  waiterPool n bound := sub.length_le.trans (inv.waiterPool n bound)
  warmupHeld := inv.warmupHeld
  openWaitClosed := inv.openWaitClosed
  closeWaitHeld := inv.closeWaitHeld
  wtmrIdle := inv.wtmrIdle
  oneOutstanding := by
    have before := inv.all_answered (Session.not_outstanding_of_not_busy notBusy)
    simp [before, Session.lineSetOutstanding, Event.lineSymbol, Event.isLineAnswer]
  syncHeld := by simp
  fifoForm := Memory.writeFrom_wf _ _ _ inv.fifoForm (by omega)
  fifoLoaded a loaded := by
    have inside : a < (b :: bs).length := loaded
    exact ⟨(b :: bs)[a], (Session.read_accept _ id inside).trans (List.getElem?_eq_getElem inside)⟩

theorem Session.Inv.defer {i : Instr} {id : Tag} {s : Bits} {ws : List Waiter} (call : x.Calls i id s ws)
    (busy : x.busy = true) (nonempty : 1 ≤ s.length) (fits : s.length ≤ Config.fifoDepth) :
    (Session.defer { x with waiters := ws } id s).Inv :=
  { inv with
    waiterRanges := by
      intro w mem
      rcases List.mem_append.mp mem with old | new
      · exact inv.waiterRanges w (call.sublist.subset old)
      · obtain rfl := List.mem_singleton.mp new
        exact ⟨le_rfl, nonempty, fits⟩
    waiterPool := by
      intro n bound
      simpa using call.room busy bound (inv.waiterPool n bound) }

theorem Session.Inv.ackOk {l : LineState} (busy : x.busy = true) (waiting : x.sub = .waitAck)
    (symbol : x.phase ≠ .sendingBit → l = syncSymbol) :
    (Session.record { x with lineQ := some l, tmr := Config.bitTicks, sub := .hold } .ackOk).Inv :=
  { inv with
    idle := by simp [busy]
    waiting := by simp
    holding := by simp [busy]
    oneOutstanding := by
      have before := inv.one_unanswered busy waiting
      simp [before, Session.lineSetOutstanding, Event.lineSymbol, Event.isLineAnswer]
    syncHeld := by
      intro phase _
      have other : x.phase ≠ .sendingBit := by simpa using phase.trans_ne (by decide)
      simp [symbol other] }

/-- The engine released, by either end of a transmission, once every line-set is answered. -/
theorem Session.Inv.released {p : Phase} (resting : p = .idle ∨ p = .failed) {n : Nat} (ended : n = 0)
    (q : Option LineState) {h : List HistEntry} (answered : (lineSets h).length = lineAnswers h) :
    Session.Inv { x.release p with tmr := n, lineQ := q, hist := h } :=
  { inv with
    pointers := by simp
    busy_iff := by rcases resting with rfl | rfl <;> simp
    idle := by simp [ended]
    inFlight := by simp
    waiting := by simp [ended]
    holding := by simp
    oneOutstanding := by simpa [Session.lineSetOutstanding] using answered
    syncHeld := by simp
    fifoLoaded := by simp }

theorem Session.Inv.ackFail (e : TransportError) (busy : x.busy = true) (waiting : x.sub = .waitAck) :
    (Session.reportOwner (Session.record { x.release .failed with tmr := 0, lineQ := none } (.ackFail e))
      x.owner .transportSetLinesFailure (.error e)).Inv := by
  obtain ⟨-, id, owner⟩ := inv.inFlight busy
  have before := inv.one_unanswered busy waiting
  rw [owner, Session.reportOwner_some]
  exact inv.released (.inr rfl) rfl none (by simp [before, Event.lineSymbol, Event.isLineAnswer])

theorem Session.Inv.tick :
    Session.Inv { x with
      tmr := if x.sub = .hold then x.tmr - 1 else x.tmr
      waiters := x.waiters.map fun w => { w with bko := w.bko - 1 }
      wtmr := if x.warming then x.wtmr - 1 else x.wtmr
      ticks := x.ticks + 1 } :=
  { inv with
    idle := fun notBusy => by
      obtain ⟨rp, wp, sub, tmr, owner⟩ := inv.idle notBusy
      simp [rp, wp, sub, tmr, owner]
    waiting := fun waiting => by
      have zero : x.tmr = 0 := inv.waiting waiting
      simp [zero]
    holding := fun holding => by
      obtain ⟨busy, bound⟩ := inv.holding holding
      exact ⟨busy, by dsimp only; split <;> omega⟩
    waiterRanges := by
      intro w mem
      obtain ⟨v, old, rfl⟩ := List.mem_map.mp mem
      obtain ⟨bko, nonempty, fits⟩ := inv.waiterRanges v old
      exact ⟨(Nat.sub_le _ _).trans bko, nonempty, fits⟩
    waiterPool := by simpa using inv.waiterPool
    warmupHeld := fun id warming => by
      obtain ⟨held, bound⟩ := inv.warmupHeld id warming
      exact ⟨held, by dsimp only; split <;> omega⟩
    wtmrIdle := fun notWarming => by
      have zero := inv.wtmrIdle notWarming
      simp [zero] }

theorem Session.Inv.expireBit (holding : x.sub = .hold) (ended : x.tmr = 0) :
    (Session.record { x with phase := .synchronizing, sub := .waitAck } (.lineSet syncSymbol)).Inv := by
  obtain ⟨busy, -⟩ := inv.holding holding
  exact { inv with
    busy_iff := by simp [busy]
    idle := by simp [busy]
    waiting := by simp [ended]
    holding := by simp
    oneOutstanding := by
      have before := inv.all_answered (Session.not_outstanding_of_hold holding)
      simp [before, busy, Session.lineSetOutstanding, Event.lineSymbol, Event.isLineAnswer]
    syncHeld := by simp }

theorem Session.Inv.advance (holding : x.sub = .hold) (ended : x.tmr = 0) (left : x.rp + 1 < x.wp) (l : LineState) :
    (Session.record { x with rp := x.rp + 1, phase := .sendingBit, sub := .waitAck } (.lineSet l)).Inv := by
  obtain ⟨busy, -⟩ := inv.holding holding
  exact { inv with
    pointers := ⟨left.le, inv.pointers.2⟩
    busy_iff := by simp [busy]
    idle := by simp [busy]
    inFlight := fun _ => ⟨left, (inv.inFlight busy).2⟩
    waiting := by simp [ended]
    holding := by simp
    oneOutstanding := by
      have before := inv.all_answered (Session.not_outstanding_of_hold holding)
      simp [before, busy, Session.lineSetOutstanding, Event.lineSymbol, Event.isLineAnswer]
    syncHeld := by simp }

theorem Session.Inv.complete (holding : x.sub = .hold) (ended : x.tmr = 0) :
    (Session.reportOwner (x.release .idle) x.owner .ok .nothing).Inv := by
  obtain ⟨busy, -⟩ := inv.holding holding
  obtain ⟨-, id, owner⟩ := inv.inFlight busy
  have before := inv.all_answered (Session.not_outstanding_of_hold holding)
  rw [owner, Session.reportOwner_some]
  exact inv.released (.inl rfl) ended x.lineQ (by simp [before, Event.lineSymbol, Event.isLineAnswer])

/-- Every operation keeps the invariants of its session. -/
theorem Session.Effect.keeps_inv {u : Nat → Bool} {i : Instr} {y : Session} (effect : x.Effect u i y) : y.Inv := by
  cases effect with
  | create => exact Session.inv_reset
  | accept call notBusy fits => exact inv.accept call.sublist notBusy _ fits
  | defer call busy nonempty fits => exact inv.defer call busy nonempty fits
  | ackOk busy waiting symbol => exact inv.ackOk busy waiting symbol
  | ackFail e busy waiting => exact inv.ackFail e busy waiting
  | tick => exact inv.tick
  | expireBit _ holding ended => exact inv.expireBit holding ended
  | advance _ holding ended left => exact inv.advance holding ended left _
  | complete _ holding ended => exact inv.complete holding ended
  | aside _ frame sop => exact frame.keeps_inv sop inv

end

/-- Settles O44: R32 is kept by each case of a step on one session, so by every step on all of them. -/
theorem everyStepKeepsTheInvariants : Obligations.EveryStepKeepsTheInvariants :=
  fun _ _ inv h => step_keeps (fun inv effect => effect.keeps_inv inv) inv h

end Sys2Proof.Machine
end

section
/-! The wire sequence of a transmission (41_engine.md R93) and the FIFO as the sequence it holds (20_memory.md R36):
what the line-sets of a transmission in flight are, kept by every case of a step (R48). -/

namespace Sys2Proof.Machine

/-! ## The wire sequence -/

theorem wire_length (b : Bits) : (wire b).length = 2 * b.length := by
  induction b with
  | nil => rfl
  | cons c cs ih => simp only [wire, List.length_cons, ih]; omega

/-- At an even place stands the symbol of a bit. -/
theorem wire_even (b : Bits) (k : Nat) : (wire b)[2 * k]? = b[k]?.map sym := by
  induction b generalizing k with
  | nil => simp [wire]
  | cons c cs ih =>
    cases k with
    | zero => simp [wire]
    | succ k => simpa [wire, Nat.mul_succ] using ih k

/-- At an odd place stands SYNC. -/
theorem wire_odd (b : Bits) (k : Nat) : (wire b)[2 * k + 1]? = b[k]?.map fun _ => syncSymbol := by
  induction b generalizing k with
  | nil => simp [wire]
  | cons c cs ih =>
    cases k with
    | zero => simp [wire]
    | succ k => simpa [wire, Nat.mul_succ] using ih k

/-- The first line-sets, ending in a bit's symbol. -/
theorem take_wire_bit {b : Bits} {k : Nat} {c : Bool} (bit : b[k]? = some c) :
    (wire b).take (2 * k + 1) = (wire b).take (2 * k) ++ [sym c] := by
  rw [List.take_add_one, wire_even, bit]
  rfl

/-- The first line-sets, ending in the SYNC of a bit. -/
theorem take_wire_sync {b : Bits} {k : Nat} {c : Bool} (bit : b[k]? = some c) :
    (wire b).take (2 * k + 2) = (wire b).take (2 * k + 1) ++ [syncSymbol] := by
  rw [List.take_add_one, wire_odd, bit]
  rfl

/-! ## The cells of the FIFO as a sequence -/

/-- Reading cells that all hold a value gives them in order. -/
theorem getElem?_filterMap_range' {f : Nat → Option Bool} {n a : Nat} (full : ∀ k < n, ∃ b, f (a + k) = some b)
    {k : Nat} (inside : k < n) : ((List.range' a n).filterMap f)[k]? = f (a + k) := by
  induction n generalizing a k with
  | zero => omega
  | succ n ih =>
    obtain ⟨b, first⟩ : ∃ b, f a = some b := full 0 (by omega)
    rw [List.range'_succ, List.filterMap_cons_some first]
    cases k with
    | zero => exact first.symm
    | succ k =>
      rw [List.getElem?_cons_succ, ih (fun j hj => ?_) (by omega)]
      · congr 1; omega
      · simpa [Nat.add_assoc, Nat.add_comm 1] using full (j + 1) (by omega)

/-- Cells that hold a sequence, element by element, read as it. -/
theorem filterMap_range'_eq {f : Nat → Option Bool} {s : Bits} {a : Nat} (holds : ∀ k < s.length, f (a + k) = s[k]?) :
    (List.range' a s.length).filterMap f = s := by
  induction s generalizing a with
  | nil => rfl
  | cons b bs ih =>
    have first : f a = some b := holds 0 (by simp)
    rw [List.length_cons, List.range'_succ, List.filterMap_cons_some first, ih fun k hk => ?_]
    simpa [Nat.add_assoc, Nat.add_comm 1] using holds (k + 1) (by simpa using hk)

/-- The sequence loaded, cell by cell. -/
theorem Session.Inv.loaded_getElem? {x : Session} (inv : x.Inv) {k : Nat} (inside : k < x.wp) :
    x.loaded[k]? = Memory.read x.fmem k := by
  have full : ∀ k < x.wp, ∃ b, Memory.read x.fmem (0 + k) = some b := by simpa using inv.fifoLoaded
  rw [Session.loaded, List.range_eq_range', getElem?_filterMap_range' full inside, Nat.zero_add]

/-- After an accept the sequence loaded is the one accepted (20_memory.md R43). -/
theorem Session.loaded_accept (x : Session) (id : Tag) (b : Bool) (bs : Bits) :
    (x.accept id b bs).loaded = b :: bs := by
  rw [Session.loaded, Session.accept_wp, List.range_eq_range', ← List.length_cons (a := b)]
  refine filterMap_range'_eq fun k inside => ?_
  rw [Nat.zero_add, Session.read_accept x id inside]

/-- The bit read at `rp`, in its guard, is the one loaded there (20_memory.md R42). -/
theorem Session.Inv.cellValue_eq {x : Session} (inv : x.Inv) (u : Nat → Bool) {k : Nat} (inside : k < x.wp) :
    Memory.read x.fmem k = some (x.cellValue u k) := by
  obtain ⟨b, value⟩ := inv.fifoLoaded k inside
  rw [Session.cellValue_defined inside value, value]

/-! ## The line-sets in flight -/

/-- The wire invariant reads nothing but these. -/
theorem Session.WireInv.congr {x y : Session} (order : x.WireInv) (busy : y.busy = x.busy)
    (hist : lineSets y.hist = lineSets x.hist) (fmem : y.fmem = x.fmem) (wp : y.wp = x.wp) (rp : y.rp = x.rp)
    (phase : y.phase = x.phase) : y.WireInv := by
  unfold Session.WireInv Session.loaded Session.wireCount at order ⊢
  rwa [busy, hist, fmem, wp, rp, phase]

theorem Session.WireInv.of_not_busy {y : Session} (notBusy : y.busy = false) : y.WireInv := by
  simp [Session.WireInv, notBusy]

section
variable {x : Session}

theorem Session.wireInv_accept (id : Tag) (b : Bool) (bs : Bits) : (x.accept id b bs).WireInv := by
  intro _
  refine ⟨lineSets x.hist, ?_⟩
  simp [Session.loaded_accept, Session.wireCount, wire, Event.lineSymbol]

variable (inv : x.Inv) (order : x.WireInv)
include inv order

/-- The SYNC of the bit at `rp` follows its symbol. -/
theorem Session.WireInv.expireBit (phase : x.phase = .sendingBit) :
    (Session.record { x with phase := .synchronizing, sub := .waitAck } (.lineSet syncSymbol)).WireInv := by
  intro busy
  obtain ⟨earlier, sent⟩ := order busy
  obtain ⟨inside, -⟩ := inv.inFlight busy
  obtain ⟨b, value⟩ := inv.fifoLoaded x.rp inside
  have bit : x.loaded[x.rp]? = some b := (inv.loaded_getElem? inside).trans value
  simp only [Session.wireCount, phase, if_true] at sent
  refine ⟨earlier, ?_⟩
  calc lineSets (x.hist ++ [⟨x.ticks, .lineSet syncSymbol⟩])
      = earlier ++ ((wire x.loaded).take (2 * x.rp + 1) ++ [syncSymbol]) := by
        rw [lineSets_append, sent, List.append_assoc]; rfl
    _ = earlier ++ (wire x.loaded).take (2 * x.rp + 2) := by rw [take_wire_sync bit]

/-- The symbol of the bit after `rp` follows the SYNC of the bit at `rp`. -/
theorem Session.WireInv.advance (u : Nat → Bool) (phase : x.phase = .synchronizing) (left : x.rp + 1 < x.wp) :
    (Session.record { x with rp := x.rp + 1, phase := .sendingBit, sub := .waitAck }
      (.lineSet (sym (x.cellValue u (x.rp + 1))))).WireInv := by
  intro busy
  obtain ⟨earlier, sent⟩ := order busy
  have bit : x.loaded[x.rp + 1]? = some (x.cellValue u (x.rp + 1)) :=
    (inv.loaded_getElem? left).trans (inv.cellValue_eq u left)
  simp only [Session.wireCount, phase, reduceCtorEq, if_false] at sent
  refine ⟨earlier, ?_⟩
  calc lineSets (x.hist ++ [⟨x.ticks, .lineSet (sym (x.cellValue u (x.rp + 1)))⟩])
      = earlier ++ ((wire x.loaded).take (2 * (x.rp + 1)) ++ [sym (x.cellValue u (x.rp + 1))]) := by
        rw [lineSets_append, sent, List.append_assoc]; rfl
    _ = earlier ++ (wire x.loaded).take (2 * (x.rp + 1) + 1) := by rw [take_wire_bit bit]

/-- Every operation keeps the line-sets of its session in wire order. -/
theorem Session.Effect.keeps_wireInv {u : Nat → Bool} {i : Instr} {y : Session} (effect : x.Effect u i y) :
    y.WireInv := by
  cases effect with
  | create => exact .of_not_busy rfl
  | accept => exact Session.wireInv_accept _ _ _
  | defer => exact order.congr rfl rfl rfl rfl rfl rfl
  | ackOk => exact order.congr rfl (by simp [Event.lineSymbol]) rfl rfl rfl rfl
  | ackFail => exact .of_not_busy (by simp)
  | tick => exact order.congr rfl rfl rfl rfl rfl rfl
  | expireBit phase => exact order.expireBit inv phase
  | advance phase _ _ left => exact order.advance inv u phase left
  | complete => exact .of_not_busy (by simp)
  | aside _ frame =>
    obtain ⟨phase, -, busy, fmem, wp, rp, -⟩ := frame.engine
    exact order.congr busy frame.lineSets_eq fmem wp rp phase

end

/-- Settles O45: the wire order is kept by each case of a step on a session with the invariants, and so are these. -/
theorem everyStepKeepsTheWireInOrder : Obligations.EveryStepKeepsTheWireInOrder := by
  intro s t inv order h y hy
  have both : ∀ y ∈ t.sessions, y.Inv ∧ y.WireInv :=
    step_keeps (fun ⟨inv, order⟩ effect => ⟨effect.keeps_inv inv, effect.keeps_wireInv inv order⟩)
      (fun x hx => ⟨inv x hx, order x hx⟩) h
  exact (both y hy).2

end Sys2Proof.Machine
end

section
/-! What no step does: the statements over all operations that follow from the cases of a step alone (41_engine.md R92
to R97, 42_session.md R109, 10_state.md R28, 30_encoding.md R65). -/

namespace Sys2Proof.Machine

/-! ## Line symbols -/

/-- A LineSet is one more symbol. -/
theorem lineSets_append_lineSet (h : List HistEntry) (n : Nat) (l : LineState) :
    lineSets (h ++ [⟨n, .lineSet l⟩]) = lineSets h ++ [l] :=
  lineSets_append _ _

/-- The symbols of a history stay known where it gains none. -/
theorem Session.SymbolsKnown.congr {x y : Session} (known : x.SymbolsKnown)
    (hist : lineSets y.hist = lineSets x.hist) : y.SymbolsKnown := by
  rwa [Session.SymbolsKnown, hist]

/-- The symbols of a history stay known where it gains a known one. -/
theorem Session.SymbolsKnown.append {x y : Session} {l : LineState} (known : x.SymbolsKnown)
    (new : l = sym true ∨ l = sym false ∨ l = syncSymbol) (hist : lineSets y.hist = lineSets x.hist ++ [l]) :
    y.SymbolsKnown := by
  intro k mem
  rw [hist, List.mem_append, List.mem_singleton] at mem
  obtain old | rfl := mem
  · exact known k old
  · exact new

theorem sym_known (b : Bool) : sym b = sym true ∨ sym b = sym false ∨ sym b = syncSymbol := by
  cases b <;> simp

/-- Every operation keeps the symbols of its session known. -/
theorem Session.Effect.keeps_symbolsKnown {u : Nat → Bool} {x y : Session} {i : Instr} (known : x.SymbolsKnown)
    (effect : x.Effect u i y) : y.SymbolsKnown := by
  cases effect with
  | create => simp [Session.SymbolsKnown, Session.reset]
  | accept => exact known.append (sym_known _) (lineSets_append_lineSet _ _ _)
  | defer => exact known.congr rfl
  | ackOk => exact known.congr (by simp [Event.lineSymbol])
  | ackFail => exact known.congr (by simp [Event.lineSymbol])
  | tick => exact known.congr rfl
  | expireBit => exact known.append (.inr (.inr rfl)) (lineSets_append_lineSet _ _ _)
  | advance => exact known.append (sym_known _) (lineSets_append_lineSet _ _ _)
  | complete => exact known.congr (by simp)
  | aside _ frame => exact known.congr frame.lineSets_eq

/-- The symbol of a bit asserts one of the two lines (30_encoding.md R58). -/
theorem sym_ne_none_asserted (b : Bool) : sym b ≠ ⟨false, false⟩ := by
  unfold sym
  cases Config.oneLine <;> cases b <;> decide

/-- Settles O46: each line-set a step issues is a bit's symbol or SYNC, and each of these asserts a line. -/
theorem everyStepKeepsTheSymbolsKnown : Obligations.EveryStepKeepsTheSymbolsKnown :=
  ⟨fun _ _ known h => step_keeps (fun known effect => effect.keeps_symbolsKnown known) known h,
    sym_ne_none_asserted true, sym_ne_none_asserted false, by decide⟩

/-! ## The transmission in flight -/

/-- A transmission in flight is ended by CREATE, by the EXPIRE.SYNC of its last bit and by ACK.FAIL, and by nothing
else (41_engine.md R95, 70_reset_and_hazards.md R149). -/
theorem Session.Effect.ends {u : Nat → Bool} {x y : Session} {i : Instr} (effect : x.Effect u i y)
    (busy : x.busy = true) (cleared : y.busy = false) :
    i = .create ∨
      (i = .expireSync ∧ ¬ x.rp + 1 < x.wp ∧ y = Session.reportOwner (x.release .idle) x.owner .ok .nothing) ∨
      ∃ e, i = .ackFail e ∧
        y = Session.reportOwner (Session.record { x.release .failed with tmr := 0, lineQ := none } (.ackFail e))
          x.owner .transportSetLinesFailure (.error e) := by
  have kept (same : y.busy = x.busy) : False := by simp [same, busy] at cleared
  cases effect with
  | create => exact .inl rfl
  | complete _ _ _ exhausted => exact .inr (.inl ⟨rfl, exhausted, rfl⟩)
  | ackFail e => exact .inr (.inr ⟨e, rfl, rfl⟩)
  | accept => cases cleared
  | defer | ackOk | tick | expireBit | advance => exact (kept rfl).elim
  | aside _ frame =>
    obtain ⟨-, -, same, -⟩ := frame.engine
    exact (kept same).elim

/-- Settles O52: these are the three ends. -/
theorem busyIsClearedOnlyOnTerminalPaths : Obligations.BusyIsClearedOnlyOnTerminalPaths := by
  intro i s t x y cur answer cur' busy cleared
  obtain create | ⟨sync, exhausted, -⟩ | ⟨e, fail, -⟩ := (effect_of_exec cur answer cur').ends busy cleared
  · exact .inl create
  · exact .inr (.inl ⟨sync, exhausted⟩)
  · exact .inr (.inr ⟨e, fail⟩)

/-- Only SEND, XMIT and RETRY call `transmit`. -/
theorem Session.Calls.caller {x : Session} {i : Instr} {id : Tag} {s : Bits} {ws : List Waiter}
    (call : x.Calls i id s ws) :
    (∃ id h m o, i = .send id h m o) ∨ (∃ id b, i = .xmit id b) ∨ ∃ w, i = .retry w := by
  cases call with
  | send id h m o => exact .inl ⟨id, h, m, o, rfl⟩
  | xmit id s => exact .inr (.inl ⟨id, s, rfl⟩)
  | retry w => exact .inr (.inr ⟨w, rfl⟩)

/-- Settles O53: an accept, EXPIRE.BIT and an EXPIRE.SYNC with a bit left each add their one symbol; no other case
touches the line-sets of the history. -/
theorem lineSetsAreIssuedAtThreePlacesOnly : Obligations.LineSetsAreIssuedAtThreePlacesOnly := by
  intro i s t x y cur answer cur' notCreate
  cases effect_of_exec cur answer cur' with
  | create => exact absurd rfl notCreate
  | accept call notBusy =>
    exact .inr ⟨by simp [notBusy], rfl, _, lineSets_append_lineSet _ _ _,
      .inl ⟨notBusy, rfl, rfl, rfl, call.caller⟩⟩
  | expireBit _ holding =>
    exact .inr ⟨by simp [holding], rfl, _, lineSets_append_lineSet _ _ _, .inr (.inl ⟨rfl, rfl⟩)⟩
  | advance _ holding _ left =>
    exact .inr ⟨by simp [holding], rfl, _, lineSets_append_lineSet _ _ _, .inr (.inr ⟨rfl, left⟩)⟩
  | defer | tick => exact .inl rfl
  | ackOk | ackFail => exact .inl (by simp [Event.lineSymbol])
  | complete => exact .inl (by simp)
  | aside _ frame => exact .inl frame.lineSets_eq

/-- Settles O54: with busy = 1 before and after, a step is neither an accept nor the end of a transmission. -/
theorem transmissionInFlightIsNotDisturbed : Obligations.TransmissionInFlightIsNotDisturbed := by
  intro i s t x y cur answer cur' busy busy' notCreate
  cases effect_of_exec cur answer cur' with
  | create => exact absurd rfl notCreate
  | accept _ notBusy => simp [busy] at notBusy
  | ackFail => simp at busy'
  | complete => simp at busy'
  | advance => exact ⟨rfl, rfl, rfl, .inr ⟨rfl, rfl⟩⟩
  | defer | ackOk | tick | expireBit => exact ⟨rfl, rfl, rfl, .inl rfl⟩
  | aside _ frame =>
    obtain ⟨-, -, -, fmem, wp, rp, -, owner, -⟩ := frame.engine
    exact ⟨owner, fmem, wp, .inl rp⟩

/-! ## Host operations and the OPEN -/

/-- Settles O55: of the engine's own cases only a deferral can be one of these operations, a SEND on a busy engine. -/
theorem hostOperationsLeaveTheEngineAlone : Obligations.HostOperationsLeaveTheEngineAlone := by
  intro i s t x y cur answer cur' host
  cases effect_of_exec cur answer cur' with
  | aside _ frame => exact frame.engine
  | defer => exact ⟨rfl, rfl, rfl, rfl, rfl, rfl, rfl, rfl, rfl⟩
  | accept call notBusy =>
    obtain ⟨_, _, _, _, rfl⟩ | ⟨_, _, rfl⟩ | ⟨_, rfl⟩ := call.caller <;> simp [notBusy] at host
  | create | ackOk | ackFail | tick | expireBit | advance | complete => simp at host

section OpenInProgress
variable {u : Nat → Bool} {x y : Session} {i : Instr}

/-- A step that leads into an OPEN was taken during it, or leaves nothing in flight or deferred (42_session.md R118). -/
theorem Session.Effect.opens (effect : x.Effect u i y) (opening : y.openInProgress = true) :
    x.openInProgress = true ∨ y.busy = false ∧ y.waiters = [] := by
  have same_sop (sop : y.sop = x.sop) : x.openInProgress = true := by
    rwa [← Session.openInProgress_congr sop]
  cases effect with
  | create => cases opening
  | accept | defer | ackOk | tick | expireBit | advance => exact .inl (same_sop rfl)
  | ackFail => exact .inl (same_sop (by simp))
  | complete => exact .inl (same_sop (by simp))
  | aside _ frame _ opens =>
    obtain ⟨-, -, busy, -⟩ := frame.engine
    rw [busy, frame.waiters]
    exact opens opening

variable (quiet : x.OpenQuiet) (opening : x.openInProgress = true)
include quiet opening

/-- During an OPEN only a direct XMIT can call `transmit`: SEND is refused and no waiter is left to RETRY. -/
theorem Session.OpenQuiet.no_call {id : Tag} {s : Bits} {ws : List Waiter} (call : x.Calls i id s ws) :
    i = .xmit id s := by
  obtain ⟨-, noWaiters⟩ := quiet opening
  cases call with
  | send _ _ _ _ _ notOpening => simp [opening] at notOpening
  | xmit => rfl
  | retry w mem => simp [noWaiters] at mem

/-- During an OPEN the engine rests: no line-set is outstanding and no hold runs, so every step but a direct XMIT
leaves it idle, without waiters and without a new line-set (42_session.md R109). -/
theorem Session.Effect.during_open (inv : x.Inv) (notXmit : ∀ id b, i ≠ .xmit id b) (effect : x.Effect u i y) :
    y.busy = false ∧ y.waiters = [] ∧ (i ≠ .create → lineSets y.hist = lineSets x.hist) := by
  obtain ⟨notBusy, noWaiters⟩ := quiet opening
  obtain ⟨-, -, waiting, -⟩ := inv.idle notBusy
  cases effect with
  | create => exact ⟨rfl, rfl, fun notCreate => absurd rfl notCreate⟩
  | accept call | defer call => exact absurd (quiet.no_call opening call) (notXmit _ _)
  | ackOk busy | ackFail _ busy => simp [notBusy] at busy
  | tick => exact ⟨notBusy, by simp [noWaiters], fun _ => rfl⟩
  | expireBit _ holding | advance _ holding | complete _ holding => simp [waiting] at holding
  | aside _ frame =>
    obtain ⟨-, -, busy, -⟩ := frame.engine
    exact ⟨busy.trans notBusy, frame.waiters.trans noWaiters, fun _ => frame.lineSets_eq⟩

end OpenInProgress

/-- Settles O56: an OPEN starts on a quiet engine, and during it the engine rests. -/
theorem nothingIsSentDuringAnOpen : Obligations.NothingIsSentDuringAnOpen := by
  intro i s t x y cur answer cur' notXmit inv quiet
  have effect := effect_of_exec cur answer cur'
  constructor
  · intro opening'
    obtain opening | idle := effect.opens opening'
    · obtain ⟨notBusy, noWaiters, -⟩ := effect.during_open quiet opening inv notXmit
      exact ⟨notBusy, noWaiters⟩
    · exact idle
  · intro opening
    obtain ⟨-, -, noLineSet⟩ := effect.during_open quiet opening inv notXmit
    exact noLineSet

/-! ## The history -/

/-- Settles O57: case by case, the new entries are none, one, or an answer and its report. -/
theorem historyOnlyGrows : Obligations.HistoryOnlyGrows := by
  intro i s t x y cur answer cur' notCreate
  cases effect_of_exec cur answer cur' with
  | create => exact absurd rfl notCreate
  | accept call => exact ⟨_, rfl, by simp, by simp, by rintro rfl; cases call⟩
  | defer | tick => exact ⟨[], by simp⟩
  | ackOk | expireBit | advance => exact ⟨_, rfl, by simp, by simp, by simp⟩
  | ackFail e =>
    obtain ⟨new, hist, short, ticks⟩ := Session.reportOwner_hist
      (Session.record { x.release .failed with tmr := 0, lineQ := none } (.ackFail e))
      x.owner .transportSetLinesFailure (.error e)
    exact ⟨⟨x.ticks, .ackFail e⟩ :: new, by simpa using hist, by simpa using short, by simpa using ticks, by simp⟩
  | complete =>
    obtain ⟨new, hist, short, ticks⟩ := Session.reportOwner_hist (x.release .idle) x.owner .ok .nothing
    exact ⟨new, hist, by omega, ticks, by simp⟩
  | aside noTick frame =>
    obtain ⟨new, hist, short, quiet⟩ := frame.hist
    exact ⟨new, hist, short, fun e he => (quiet e he).1, fun h => absurd h noTick⟩

end Sys2Proof.Machine
end

section
/-! How a step of the machine comes from a step of its session, in both directions and for each of the three outcomes
(10_state.md R34), and the statements that turn on it: what faults, what a step depends on, what is refused. -/

namespace Sys2Proof.Machine

/-! ## From a session to the machine and back -/

section
variable {i : Instr} {s : State}

/-- An operation of no session delivers its value. -/
theorem exec_of_evaluation (meaning : sessionMeaning s.undefinedCells i = none) :
    exec i s = .next { s with ret := deliveredValue i } := by
  rw [exec_shape, meaning]
  rfl

/-- An operation of a session that does not exist is refused (log 4). -/
theorem exec_of_no_session {f : Session → Host.Outcome Session Fault Refusal}
    (meaning : sessionMeaning s.undefinedCells i = some f) (none_cur : s.cur = none) :
    exec i s = .refused .noSuchSession := by
  simp only [exec_shape, meaning, State.onCur, none_cur]

/-- What the selected session refuses, the machine refuses. -/
theorem exec_of_session_refused {x : Session} {f : Session → Host.Outcome Session Fault Refusal} {r : Refusal}
    (meaning : sessionMeaning s.undefinedCells i = some f) (cur : s.cur = some x) (answer : f x = .refused r) :
    exec i s = .refused r := by
  simp only [exec_shape, meaning, State.onCur_of_cur cur, answer]

/-- What faults on the selected session faults on the machine. -/
theorem exec_of_session_fault {x : Session} {f : Session → Host.Outcome Session Fault Refusal} {r : Fault}
    (meaning : sessionMeaning s.undefinedCells i = some f) (cur : s.cur = some x) (answer : f x = .fault r) :
    exec i s = .fault r := by
  simp only [exec_shape, meaning, State.onCur_of_cur cur, answer]

/-- Where an operation of the selected session answers, it does so by that session's answer. -/
theorem exec_next_of_session {t : State} {x : Session} {f : Session → Host.Outcome Session Fault Refusal}
    (meaning : sessionMeaning s.undefinedCells i = some f) (cur : s.cur = some x) (answer : exec i s = .next t) :
    ∃ y, f x = .next y ∧ t = s.setCur y := by
  obtain ⟨evaluation, -⟩ | ⟨g, z, y, meaning', cur', hy, rfl⟩ := exec_next answer
  · simp [meaning] at evaluation
  · obtain rfl : g = f := Option.some.inj (meaning'.symm.trans meaning)
    obtain rfl : z = x := Option.some.inj (cur'.symm.trans cur)
    exact ⟨y, hy, rfl⟩

/-- A refusal of the machine is one of the selected session, or there is no such session. -/
theorem exec_refused {r : Refusal} (h : exec i s = .refused r) :
    ∃ f, sessionMeaning s.undefinedCells i = some f ∧
      (s.cur = none ∧ r = .noSuchSession ∨ ∃ x, s.cur = some x ∧ f x = .refused r) := by
  cases meaning : sessionMeaning s.undefinedCells i with
  | none => simp [exec_of_evaluation meaning] at h
  | some f =>
    refine ⟨f, rfl, ?_⟩
    cases cur : s.cur with
    | none =>
      rw [exec_of_no_session meaning cur] at h
      exact .inl ⟨rfl, by simpa using h.symm⟩
    | some x =>
      refine .inr ⟨x, rfl, ?_⟩
      cases answer : f x with
      | next y => simp [exec_of_session_next meaning cur answer] at h
      | fault => simp [exec_of_session_fault meaning cur answer] at h
      | refused => simpa [exec_of_session_refused meaning cur answer] using h

/-- A fault of the machine is one of the selected session. -/
theorem exec_fault {r : Fault} (h : exec i s = .fault r) :
    ∃ f x, sessionMeaning s.undefinedCells i = some f ∧ s.cur = some x ∧ f x = .fault r := by
  cases meaning : sessionMeaning s.undefinedCells i with
  | none => simp [exec_of_evaluation meaning] at h
  | some f =>
    cases cur : s.cur with
    | none => simp [exec_of_no_session meaning cur] at h
    | some x =>
      refine ⟨f, x, rfl, rfl, ?_⟩
      cases answer : f x with
      | next y => simp [exec_of_session_next meaning cur answer] at h
      | fault => simpa [exec_of_session_fault meaning cur answer] using h
      | refused => simp [exec_of_session_refused meaning cur answer] at h

end

/-! ## One session alone -/

/-- Settles O58: a step writes at most the selected session, and its meaning on that session is fixed by the operation
and the number of the step. -/
theorem instancesAreIndependent : Obligations.InstancesAreIndependent := by
  refine ⟨fun i s t answer => ?_, fun i s s' cur steps => ?_, fun i s noCur => ?_⟩
  · obtain ⟨-, rfl⟩ | ⟨f, x, y, -, -, -, rfl⟩ := exec_next answer
    · exact ⟨rfl, rfl, fun _ _ => rfl⟩
    · exact ⟨rfl, List.length_set, fun k other => State.setCur_other s y k other⟩
  · have cells : s'.undefinedCells = s.undefinedCells := by rw [State.undefinedCells, State.undefinedCells, steps]
    refine ⟨fun t answer => ?_, fun r answer => ?_, fun r answer => ?_⟩
    · obtain ⟨meaning, rfl⟩ | ⟨f, x, y, meaning, hx, hy, rfl⟩ := exec_next answer
      · exact ⟨_, exec_of_evaluation (cells ▸ meaning), cur.symm⟩
      · have hx' := cur.symm.trans hx
        refine ⟨_, exec_of_session_next (cells ▸ meaning) hx' hy, ?_⟩
        rw [State.cur_setCur _ _ _ hx, State.cur_setCur _ _ _ hx']
    · obtain ⟨f, x, meaning, hx, hf⟩ := exec_fault answer
      exact exec_of_session_fault (cells ▸ meaning) (cur.symm.trans hx) hf
    · obtain ⟨f, meaning, ⟨noCur, rfl⟩ | ⟨x, hx, hf⟩⟩ := exec_refused answer
      · exact exec_of_no_session (cells ▸ meaning) (cur.symm.trans noCur)
      · exact exec_of_session_refused (cells ▸ meaning) (cur.symm.trans hx) hf
  · cases meaning : sessionMeaning s.undefinedCells i with
    | none => exact .inr ⟨_, exec_of_evaluation meaning⟩
    | some f => exact .inl (exec_of_no_session meaning noCur)

/-! ## Undefined cells -/

section
variable {x : Session} (inv : x.Inv)
include inv

/-- A read below `wp` goes on with a bit that is the same whatever the free values are (20_memory.md R42). -/
theorem Session.Inv.withCell_eq {a : Nat} (inside : a < x.wp) :
    ∃ b, ∀ u k, x.withCell u a k = k b := by
  obtain ⟨b, value⟩ := inv.fifoLoaded a inside
  exact ⟨b, fun u k => Session.withCell_defined k inside (inside.trans_le inv.pointers.2) value⟩

/-- ACK.OK reads the cell at `rp`, which is below `wp` while a line-set is outstanding. -/
theorem Session.Inv.ackOk_reads_defined (u v : Nat → Bool) : x.ackOk u = x.ackOk v ∧ ∀ r, x.ackOk u ≠ .fault r := by
  by_cases outstanding : x.lineSetOutstanding = true
  · obtain ⟨busy, -⟩ := x.lineSetOutstanding_iff.mp outstanding
    obtain ⟨b, reads⟩ := inv.withCell_eq (inv.inFlight busy).1
    simp only [Session.ackOk, reads, true_and]
    intro r
    split_ifs <;> simp
  · simp [Session.ackOk, outstanding]

/-- EXPIRE.SYNC reads the cell after `rp` where that is below `wp`. -/
theorem Session.Inv.expireSync_reads_defined (u v : Nat → Bool) :
    x.expireSync u = x.expireSync v ∧ ∀ r, x.expireSync u ≠ .fault r := by
  by_cases left : x.rp + 1 < x.wp
  · obtain ⟨b, reads⟩ := inv.withCell_eq left
    simp only [Session.expireSync, reads, true_and]
    intro r
    split_ifs <;> simp
  · simp only [Session.expireSync, left, if_false, true_and]
    intro r
    split_ifs <;> simp

omit inv in
/-- Whether an operation belongs to a session does not depend on the free values. -/
theorem sessionMeaning_none_indep {i : Instr} {u : Nat → Bool} (meaning : sessionMeaning u i = none)
    (v : Nat → Bool) : sessionMeaning v i = none := by
  have same : (sessionMeaning v i).isNone = (sessionMeaning u i).isNone := by cases i <;> rfl
  simpa [meaning] using same

/-- What an operation does to a session with the invariants does not depend on the free values. -/
theorem Session.Inv.meaning_indep {i : Instr} {u : Nat → Bool} {f : Session → Host.Outcome Session Fault Refusal}
    (meaning : sessionMeaning u i = some f) (v : Nat → Bool) : ∃ g, sessionMeaning v i = some g ∧ g x = f x := by
  cases i with
  | ackOk =>
    cases meaning
    exact ⟨_, rfl, (inv.ackOk_reads_defined v u).1⟩
  | expireSync =>
    cases meaning
    exact ⟨_, rfl, (inv.expireSync_reads_defined v u).1⟩
  | _ => exact ⟨f, meaning, rfl⟩

/-- No operation faults on a session with the invariants: but for the two reads of the FIFO, no branch of any operation
is a fault. -/
theorem Session.Inv.meaning_ne_fault {i : Instr} {u : Nat → Bool}
    {f : Session → Host.Outcome Session Fault Refusal} (meaning : sessionMeaning u i = some f) (r : Fault) :
    f x ≠ .fault r := by
  cases i with
  | ackOk =>
    cases meaning
    exact (inv.ackOk_reads_defined u u).2 r
  | expireSync =>
    cases meaning
    exact (inv.expireSync_reads_defined u u).2 r
  | xmit id s =>
    cases meaning
    simp only [Session.xmit]
    split
    · simp
    · exact Session.transmit_ne_fault _ _ _ r
  | retry w =>
    cases meaning
    simp only [Session.retry]
    split
    · exact Session.transmit_ne_fault _ _ _ r
    · simp
  | send id h m o =>
    cases meaning
    simp only [Session.send]
    split
    · simp
    · split
      · simp
      · split
        · simp
        · exact Session.transmit_ne_fault _ _ _ r
  | housecode | modulecode | encodeCommand | frameOn | frameOff | symOne | symZero | symSync => cases meaning
  | create | openSession | closeSession | listPorts | ackFail | tick | expireBit | topenOk | topenFail | tcloseOk
    | tcloseFail | warmdone | tlistOk | tlistFail =>
    cases meaning
    simp only [Session.openAt, Session.close, Session.list, Session.ackFail, Session.tick, Session.expireBit,
      Session.topenOk, Session.topenFail, Session.tcloseOk, Session.tcloseFail, Session.warmdone, Session.tlistOk,
      Session.tlistFail]
    repeat' split
    all_goals simp

/-- Each end of a transmission but CREATE is reported to its owner (41_engine.md R88, R89). -/
theorem Session.Inv.end_reported {i : Instr} {u : Nat → Bool} {y : Session} (effect : x.Effect u i y)
    (busy : x.busy = true) (cleared : y.busy = false) (notCreate : i ≠ .create) :
    ∃ id new, x.owner = some id ∧ y.hist = x.hist ++ new ∧
      ((i = .expireSync ∧ ⟨x.ticks, .complete id .ok .nothing⟩ ∈ new) ∨
        ∃ e, i = .ackFail e ∧ ⟨x.ticks, .complete id .transportSetLinesFailure (.error e)⟩ ∈ new) := by
  obtain ⟨-, id, owner⟩ := inv.inFlight busy
  obtain create | ⟨rfl, -, rfl⟩ | ⟨e, rfl, rfl⟩ := effect.ends busy cleared
  · exact absurd create notCreate
  · exact ⟨id, [⟨x.ticks, .complete id .ok .nothing⟩], owner, by simp [owner], .inl ⟨rfl, by simp⟩⟩
  · exact ⟨id, [⟨x.ticks, .ackFail e⟩, ⟨x.ticks, .complete id .transportSetLinesFailure (.error e)⟩], owner,
      by simp [owner], .inr ⟨e, rfl, by simp⟩⟩

end

/-- Settles O20: the two operations that read the FIFO read loaded cells only, and an engine in flight has an owner. -/
theorem nothingUndefinedIsReadAndEveryEndIsReported : Obligations.NothingUndefinedIsReadAndEveryEndIsReported := by
  intro i s x cur inv
  refine ⟨fun r fault => ?_, fun n t answer => ?_, fun n r answer => ?_, fun t y answer cur' => ?_⟩
  · obtain ⟨f, x', meaning, hx, hf⟩ := exec_fault fault
    obtain rfl : x = x' := Option.some.inj (cur.symm.trans hx)
    exact inv.meaning_ne_fault meaning r hf
  · obtain ⟨meaning, rfl⟩ | ⟨f, x', y, meaning, hx, hy, rfl⟩ := exec_next answer
    · exact exec_of_evaluation (sessionMeaning_none_indep meaning _)
    · obtain rfl : x = x' := Option.some.inj (cur.symm.trans hx)
      obtain ⟨g, meaning', same⟩ := inv.meaning_indep meaning (State.undefinedCells { s with steps := n })
      exact exec_of_session_next meaning' cur (same.trans hy)
  · obtain ⟨f, meaning, ⟨noCur, -⟩ | ⟨x', hx, hf⟩⟩ := exec_refused answer
    · simp [noCur] at cur
    · obtain rfl : x = x' := Option.some.inj (cur.symm.trans hx)
      obtain ⟨g, meaning', same⟩ := inv.meaning_indep meaning (State.undefinedCells { s with steps := n })
      exact exec_of_session_refused meaning' cur (same.trans hf)
  · exact inv.end_reported (effect_of_exec cur answer cur')

end Sys2Proof.Machine
end

section
/-! The operations outside their guards (log 4), the operations in the enabled cases that no earlier part says, and the
statements that are one application of these to the selected session (41_engine.md, 42_session.md, 60_exceptions.md). -/

namespace Sys2Proof.Machine

/-! ## Outside the guard -/

section Refusals
variable {x : Session}

theorem Session.ackOk_not_outstanding {u : Nat → Bool} (guard : ¬ (x.busy = true ∧ x.sub = .waitAck)) :
    x.ackOk u = .refused .noLineSetOutstanding := by
  rw [← Session.lineSetOutstanding_iff] at guard
  simp [Session.ackOk, guard]

theorem Session.ackFail_not_outstanding (guard : ¬ (x.busy = true ∧ x.sub = .waitAck)) (e : TransportError) :
    x.ackFail e = .refused .noLineSetOutstanding := by
  rw [← Session.lineSetOutstanding_iff] at guard
  simp [Session.ackFail, guard]

/-- Success needs a connection (42_session.md R103). -/
theorem Session.ackOk_closed {u : Nat → Bool} (busy : x.busy = true) (waiting : x.sub = .waitAck)
    (closed : x.conn = .closed) : x.ackOk u = .refused .noConnectionForSuccess := by
  simp [Session.ackOk, Session.lineSetOutstanding, Session.connected, busy, waiting, closed]

theorem Session.expireBit_not_due (guard : ¬ (x.phase = .sendingBit ∧ x.sub = .hold ∧ x.tmr = 0)) :
    x.expireBit = .refused .noBitExpiry := by
  rw [← Session.bitExpiryDue_iff] at guard
  simp [Session.expireBit, guard]

theorem Session.expireSync_not_due {u : Nat → Bool}
    (guard : ¬ (x.phase = .synchronizing ∧ x.sub = .hold ∧ x.tmr = 0)) :
    x.expireSync u = .refused .noSyncExpiry := by
  rw [← Session.syncExpiryDue_iff] at guard
  simp [Session.expireSync, guard]

theorem Session.retry_not_due {w : Waiter} (guard : ¬ (w ∈ x.waiters ∧ w.bko = 0)) :
    x.retry w = .refused .noSuchWaiterDue := by
  rw [Session.retry, if_neg guard]

theorem Session.topenOk_not_waiting (guard : ∀ id ep, x.sop ≠ .openWait id ep) :
    x.topenOk = .refused .noOpenOutstanding := by
  unfold Session.topenOk
  split
  · exact absurd ‹_› (guard _ _)
  · rfl

theorem Session.topenFail_not_waiting (guard : ∀ id ep, x.sop ≠ .openWait id ep) (e : TransportError) :
    x.topenFail e = .refused .noOpenOutstanding := by
  unfold Session.topenFail
  split
  · exact absurd ‹_› (guard _ _)
  · rfl

theorem Session.tcloseOk_not_waiting (guard : ∀ id next, x.sop ≠ .closeWait id next) :
    x.tcloseOk = .refused .noCloseOutstanding := by
  unfold Session.tcloseOk
  split
  · exact absurd ‹_› (guard _ _)
  · exact absurd ‹_› (guard _ _)
  · rfl

theorem Session.tcloseFail_not_waiting (guard : ∀ id next, x.sop ≠ .closeWait id next) (e : TransportError) :
    x.tcloseFail e = .refused .noCloseOutstanding := by
  unfold Session.tcloseFail
  split
  · exact absurd ‹_› (guard _ _)
  · rfl

theorem Session.warmdone_not_due (guard : ¬ ∃ id, x.sop = .warmup id ∧ x.wtmr = 0) :
    x.warmdone = .refused .noWarmupEnd := by
  unfold Session.warmdone
  split
  · rename_i id warming
    rw [if_neg fun zero => guard ⟨id, warming, zero⟩]
  · rfl

theorem Session.tlistOk_not_pending {id : Tag} (guard : id ∉ x.lpend) (l : List PortRecord) :
    x.tlistOk id l = .refused .noListOutstanding := by
  rw [Session.tlistOk, if_neg guard]

theorem Session.tlistFail_not_pending {id : Tag} (guard : id ∉ x.lpend) (e : TransportError) :
    x.tlistFail id e = .refused .noListOutstanding := by
  rw [Session.tlistFail, if_neg guard]

theorem Session.send_during_open (opening : x.openInProgress = true) (id : Tag) (h m : Int) (o : Bool) :
    x.send id h m o = .refused .sendDuringOpen := by
  rw [Session.send, if_pos opening]

theorem Session.openAt_overlapping (overlap : x.sop ≠ .idle) (id : Tag) (ep : Endpoint) :
    x.openAt id ep = .refused .sessionOperationInProgress := by
  rw [Session.openAt, if_pos overlap]

theorem Session.close_overlapping (overlap : x.sop ≠ .idle) (id : Tag) :
    x.close id = .refused .sessionOperationInProgress := by
  rw [Session.close, if_pos overlap]

theorem Session.openAt_transmitting (free : x.sop = .idle) (pending : x.busy = true ∨ x.waiters ≠ []) (id : Tag)
    (ep : Endpoint) : x.openAt id ep = .refused .openDuringTransmission := by
  rw [Session.openAt, if_neg (by simp [free]), if_pos (by simpa using pending)]

/-- A length without a meaning (41_engine.md R100). -/
theorem Session.transmit_other_length {s : Bits} (other : s.length = 0 ∨ 40 < s.length) (id : Tag) :
    x.transmit id s = .refused .sequenceLength := by
  cases s with
  | nil => rfl
  | cons b bs =>
    have long : Config.fifoDepth < (b :: bs).length := other.resolve_left (by simp)
    rw [Session.transmit, if_pos long]

end Refusals

/-! ## Inside the guard -/

section Answers
variable {x : Session}

/-- ACK.FAIL to a transmission with an owner (41_engine.md R89). -/
theorem Session.ackFail_owned {id : Tag} (busy : x.busy = true) (waiting : x.sub = .waitAck)
    (owner : x.owner = some id) (e : TransportError) :
    x.ackFail e = .next
      ((Session.record { x.release .failed with tmr := 0, lineQ := none } (.ackFail e)).record
        (.complete id .transportSetLinesFailure (.error e))) := by
  simp [Session.ackFail, Session.lineSetOutstanding, busy, waiting, owner]

/-- RETRY of a waiter that is due is its `transmit` with the waiter taken out (41_engine.md R90). -/
theorem Session.retry_due {w : Waiter} (mem : w ∈ x.waiters) (due : w.bko = 0) :
    x.retry w = Session.transmit { x with waiters := x.waiters.erase w } w.id w.bits := by
  rw [Session.retry, if_pos ⟨mem, due⟩]

/-- XMIT on a busy engine defers where there is room (41_engine.md R84). -/
theorem Session.xmit_busy {s : Bits} (busy : x.busy = true) (nonempty : 1 ≤ s.length) (fits : s.length ≤ 40)
    (id : Tag) : x.xmit id s = if x.hasRoom then .next (x.defer id s) else .refused .heldOffAtPort := by
  obtain ⟨b, bs, rfl⟩ := List.exists_cons_of_length_pos nonempty
  have hasLength : lengthFits (b :: bs) = true := by
    rw [lengthFits, Bool.and_eq_true, decide_eq_true_eq, decide_eq_true_eq]
    exact ⟨nonempty, fits⟩
  cases room : x.hasRoom with
  | true => simp [Session.xmit, room, Session.transmit_busy x id b bs fits busy]
  | false => simp [Session.xmit, room, hasLength, busy]

theorem Session.topenFail_waiting {id : Tag} {ep : Endpoint} (waiting : x.sop = .openWait id ep) (e : TransportError) :
    x.topenFail e = .next
      ((Session.record { x with sop := .idle } (.topenFail e)).raise id .transportOpenFailure (.error e)) := by
  rw [Session.topenFail, waiting]

theorem Session.tcloseOk_done {id : Tag} (waiting : x.sop = .closeWait id .done) :
    x.tcloseOk = .next
      ((Session.record { x with conn := .closed, sop := .idle } .tcloseOk).succeed id .nothing) := by
  rw [Session.tcloseOk, waiting]

theorem Session.tcloseOk_thenOpen {id : Tag} {ep : Endpoint} (waiting : x.sop = .closeWait id (.thenOpen ep)) :
    x.tcloseOk = .next
      ((Session.record { x with conn := .closed, sop := .openWait id ep } .tcloseOk).record (.topenReq ep)) := by
  rw [Session.tcloseOk, waiting]

theorem Session.tcloseFail_waiting {id : Tag} {next : CloseNext} (waiting : x.sop = .closeWait id next)
    (e : TransportError) :
    x.tcloseFail e = .next
      ((Session.record { x with sop := .idle } (.tcloseFail e)).raise id .transportCloseFailure (.error e)) := by
  rw [Session.tcloseFail, waiting]

theorem Session.warmdone_due {id : Tag} (warming : x.sop = .warmup id) (ended : x.wtmr = 0) :
    x.warmdone = .next (Session.succeed { x with sop := .idle } id .nothing) := by
  rw [Session.warmdone, warming]
  exact if_pos ended

theorem Session.tlistOk_pending {id : Tag} (pending : id ∈ x.lpend) (l : List PortRecord) :
    x.tlistOk id l = .next
      ((Session.record { x with lpend := x.lpend.erase id } (.tlistOk id l)).succeed id (.ports l)) := by
  rw [Session.tlistOk, if_pos pending]

theorem Session.tlistFail_pending {id : Tag} (pending : id ∈ x.lpend) (e : TransportError) :
    x.tlistFail id e = .next
      ((Session.record { x with lpend := x.lpend.erase id } (.tlistFail id e)).raise id
        .transportEnumerateFailure (.error e)) := by
  rw [Session.tlistFail, if_pos pending]

end Answers

/-! ## The statements: refusals -/

/-- Settles O36: each guard of the statement is the one its operation tests. -/
theorem stepsOutsideTheirGuardsAreRefused : Obligations.StepsOutsideTheirGuardsAreRefused := by
  intro s x cur
  refine ⟨fun guard => ⟨?_, fun e => ?_⟩, fun busy waiting closed => ?_, fun guard => ?_, fun guard => ?_,
    fun w guard => ?_, fun guard => ⟨?_, fun e => ?_⟩, fun guard => ⟨?_, fun e => ?_⟩, fun guard => ?_,
    fun id guard => ⟨fun l => ?_, fun e => ?_⟩⟩
  · exact exec_of_session_refused rfl cur (Session.ackOk_not_outstanding guard)
  · exact exec_of_session_refused rfl cur (Session.ackFail_not_outstanding guard e)
  · exact exec_of_session_refused rfl cur (Session.ackOk_closed busy waiting closed)
  · exact exec_of_session_refused rfl cur (Session.expireBit_not_due guard)
  · exact exec_of_session_refused rfl cur (Session.expireSync_not_due guard)
  · exact exec_of_session_refused rfl cur (Session.retry_not_due guard)
  · exact exec_of_session_refused rfl cur (Session.topenOk_not_waiting guard)
  · exact exec_of_session_refused rfl cur (Session.topenFail_not_waiting guard e)
  · exact exec_of_session_refused rfl cur (Session.tcloseOk_not_waiting guard)
  · exact exec_of_session_refused rfl cur (Session.tcloseFail_not_waiting guard e)
  · exact exec_of_session_refused rfl cur (Session.warmdone_not_due guard)
  · exact exec_of_session_refused rfl cur (Session.tlistOk_not_pending guard l)
  · exact exec_of_session_refused rfl cur (Session.tlistFail_not_pending guard e)

/-- Settles O12: neither caller tests anything that could keep a bad length from `transmit`. -/
theorem transmitRefusesOtherLengths : Obligations.TransmitRefusesOtherLengths := by
  intro s x id b cur other
  constructor
  · have noLength : lengthFits b = false := by
      obtain empty | long := other
      · simp [lengthFits, empty]
      · exact Bool.and_eq_false_iff.mpr (.inr (decide_eq_false (Nat.not_le.mpr long)))
    have answer : x.xmit id b = .refused .sequenceLength := by
      rw [Session.xmit, if_neg (by simp [noLength]), Session.transmit_other_length other]
    exact exec_of_session_refused rfl cur answer
  · intro mem
    exact exec_of_session_refused rfl cur ((Session.retry_due mem rfl).trans (Session.transmit_other_length other _))

/-- Settles O24: the three stages are what `openInProgress` says. -/
theorem sendIsRefusedDuringAnOpen : Obligations.SendIsRefusedDuringAnOpen := by
  intro s x id h m o cur stage
  have opening : x.openInProgress = true := by
    rw [Session.openInProgress]
    obtain ⟨c, ep, sop⟩ | ⟨c, ep, sop⟩ | ⟨c, sop⟩ := stage <;> rw [sop]
  exact exec_of_session_refused rfl cur (Session.send_during_open opening id h m o)

/-- Settles O27: `sop` is tested first, by OPEN and by CLOSE, and OPEN then tests the engine and the pool. -/
theorem overlappingSessionOperationsAreRefused : Obligations.OverlappingSessionOperationsAreRefused := by
  intro s x id ep cur
  constructor
  · intro overlap
    exact ⟨exec_of_session_refused rfl cur (Session.openAt_overlapping overlap id ep),
      exec_of_session_refused rfl cur (Session.close_overlapping overlap id)⟩
  · intro free pending
    exact exec_of_session_refused rfl cur (Session.openAt_transmitting free pending id ep)

/-! ## The statements: where a step is enabled -/

/-- A step is enabled on the machine where it is on the selected session. -/
theorem exec_enabled_iff {i : Instr} {s : State} {x : Session} {f : Session → Host.Outcome Session Fault Refusal}
    (meaning : sessionMeaning s.undefinedCells i = some f) (cur : s.cur = some x) :
    (∃ t, exec i s = .next t) ↔ ∃ y, f x = .next y := by
  constructor
  · rintro ⟨t, answer⟩
    obtain ⟨y, hy, -⟩ := exec_next_of_session meaning cur answer
    exact ⟨y, hy⟩
  · rintro ⟨y, hy⟩
    exact ⟨_, exec_of_session_next meaning cur hy⟩

/-- Settles O16: the three exclusions are those of an urgent step. -/
theorem tickYieldsToUrgentSteps : Obligations.TickYieldsToUrgentSteps := by
  intro s x cur
  rw [exec_enabled_iff (f := Session.tick) rfl cur]
  constructor
  · rintro ⟨y, answer⟩
    obtain ⟨quiet, -⟩ := Session.tick_next answer
    rw [Bool.eq_false_iff, ne_eq, Session.urgent_iff] at quiet
    push Not at quiet
    obtain ⟨hold, backoff, warmup⟩ := quiet
    exact ⟨fun ⟨holding, zero⟩ => hold holding zero, fun w mem => Nat.pos_of_ne_zero (backoff w mem),
      fun ⟨id, warming, zero⟩ => warmup id warming zero⟩
  · rintro ⟨hold, backoff, warmup⟩
    exact ⟨_, Session.tick_of_not_urgent (Session.urgent_eq_false
      (fun holding => Nat.pos_of_ne_zero fun zero => hold ⟨holding, zero⟩) backoff
      fun id warming => Nat.pos_of_ne_zero fun zero => warmup ⟨id, warming, zero⟩)⟩

/-- The two engine patterns, by the codes they are made of (opcode_table.json). -/
theorem enginePattern_iff (p : Phase) (q : Sub) (ended : Bool) :
    (p.code ++ (q.code ++ BitVec.ofBool ended) = 0b0111#4 ↔ p = .sendingBit ∧ q = .hold ∧ ended = true) ∧
      (p.code ++ (q.code ++ BitVec.ofBool ended) = 0b1011#4 ↔ p = .synchronizing ∧ q = .hold ∧ ended = true) := by
  cases p <;> cases q <;> cases ended <;> decide

theorem Session.engineGuard_bit_iff (x : Session) :
    x.engineGuard = 0b0111#4 ↔ x.phase = .sendingBit ∧ x.sub = .hold ∧ x.tmr = 0 := by
  rw [Session.engineGuard, (enginePattern_iff _ _ _).1, decide_eq_true_iff]

theorem Session.engineGuard_sync_iff (x : Session) :
    x.engineGuard = 0b1011#4 ↔ x.phase = .synchronizing ∧ x.sub = .hold ∧ x.tmr = 0 := by
  rw [Session.engineGuard, (enginePattern_iff _ _ _).2, decide_eq_true_iff]

/-- The session pattern, by the codes it is made of (opcode_table.json). -/
theorem sessionPattern_iff (p : Sop) (ended : Bool) :
    p.code ++ BitVec.ofBool ended = 0b111#3 ↔ (∃ id, p = .warmup id) ∧ ended = true := by
  cases p <;> cases ended <;> simp [Sop.code]

theorem Session.sessionGuard_iff (x : Session) :
    x.sessionGuard = 0b111#3 ↔ ∃ id, x.sop = .warmup id ∧ x.wtmr = 0 := by
  rw [Session.sessionGuard, sessionPattern_iff, decide_eq_true_iff, exists_and_right]

/-- Settles O42: each guard pattern is the condition its step tests; EXPIRE.SYNC reads a cell that exists, `wp` being
at most 40. -/
theorem internalStepsAreEnabledAtTheirGuardPatterns : Obligations.InternalStepsAreEnabledAtTheirGuardPatterns := by
  intro s x cur
  refine ⟨?_, fun fits => ?_, ?_⟩
  · rw [exec_enabled_iff (f := Session.expireBit) rfl cur, Session.engineGuard_bit_iff]
    constructor
    · rintro ⟨y, answer⟩
      obtain ⟨phase, holding, ended, -⟩ := Session.expireBit_next answer
      exact ⟨phase, holding, ended⟩
    · intro guard
      exact ⟨_, Session.expireBit_due (x.bitExpiryDue_iff.mpr guard)⟩
  · rw [exec_enabled_iff (f := Session.expireSync s.undefinedCells) rfl cur, Session.engineGuard_sync_iff]
    constructor
    · rintro ⟨y, answer⟩
      obtain ⟨phase, holding, ended, -⟩ := Session.expireSync_next answer
      exact ⟨phase, holding, ended⟩
    · intro guard
      have due : (!x.syncExpiryDue) = false := by rw [x.syncExpiryDue_iff.mpr guard]; rfl
      by_cases left : x.rp + 1 < x.wp
      · have exists_cell : x.rp + 1 < Config.fifoDepth := left.trans_le fits
        exact ⟨_, by simp only [Session.expireSync, due, left, Session.withCell, exists_cell]; rfl⟩
      · exact ⟨_, by simp only [Session.expireSync, due, left]; rfl⟩
  · rw [exec_enabled_iff (f := Session.warmdone) rfl cur, Session.sessionGuard_iff]
    constructor
    · rintro ⟨y, answer⟩
      obtain ⟨id, warming, ended, -⟩ := Session.warmdone_next answer
      exact ⟨id, warming, ended⟩
    · rintro ⟨id, warming, ended⟩
      exact ⟨_, Session.warmdone_due warming ended⟩

/-! ## The statements: quiescence -/

theorem Session.quiescent_iff (x : Session) :
    x.quiescent = true ↔ x.busy = false ∧ x.waiters = [] ∧ x.sop = .idle ∧ x.lpend = [] := by
  simp [Session.quiescent, and_assoc]

/-- Settles O59: with nothing in flight, deferred, in progress or pending, every guard but TICK's fails, and no counter
runs. -/
theorem quiescentSessionsWaitForTheHost : Obligations.QuiescentSessionsWaitForTheHost := by
  intro s x cur inv quiescent
  obtain ⟨notBusy, noWaiters, free, nonePending⟩ := x.quiescent_iff.mp quiescent
  obtain ⟨-, -, waiting, -⟩ := inv.idle notBusy
  refine ⟨?_, ?_, fun w => ?_, fun id l => ?_, fun id e => ?_⟩
  · have quiet : x.urgent = false :=
      Session.urgent_eq_false (by simp [waiting]) (by simp [noWaiters]) (by simp [free])
    have answer : x.tick = .next { x with ticks := x.ticks + 1 } := by
      simp [Session.tick_of_not_urgent quiet, waiting, noWaiters, Session.warming, free]
    exact exec_of_session_next rfl cur answer
  · intro e i hi
    simp only [List.mem_cons, List.not_mem_nil, or_false] at hi
    obtain rfl | rfl | rfl | rfl | rfl | rfl | rfl | rfl | rfl := hi
    · exact ⟨_, exec_of_session_refused rfl cur (Session.ackOk_not_outstanding (by simp [notBusy]))⟩
    · exact ⟨_, exec_of_session_refused rfl cur (Session.ackFail_not_outstanding (by simp [notBusy]) e)⟩
    · exact ⟨_, exec_of_session_refused rfl cur (Session.expireBit_not_due (by simp [waiting]))⟩
    · exact ⟨_, exec_of_session_refused rfl cur (Session.expireSync_not_due (by simp [waiting]))⟩
    · exact ⟨_, exec_of_session_refused rfl cur (Session.topenOk_not_waiting (by simp [free]))⟩
    · exact ⟨_, exec_of_session_refused rfl cur (Session.topenFail_not_waiting (by simp [free]) e)⟩
    · exact ⟨_, exec_of_session_refused rfl cur (Session.tcloseOk_not_waiting (by simp [free]))⟩
    · exact ⟨_, exec_of_session_refused rfl cur (Session.tcloseFail_not_waiting (by simp [free]) e)⟩
    · exact ⟨_, exec_of_session_refused rfl cur (Session.warmdone_not_due (by simp [free]))⟩
  · exact ⟨_, exec_of_session_refused rfl cur (Session.retry_not_due (by simp [noWaiters]))⟩
  · exact ⟨_, exec_of_session_refused rfl cur (Session.tlistOk_not_pending (by simp [nonePending]) l)⟩
  · exact ⟨_, exec_of_session_refused rfl cur (Session.tlistFail_not_pending (by simp [nonePending]) e)⟩

/-! ## The statements: answers and deferrals -/

/-- Settles O11: the room for one more waiter is all that XMIT asks of the pool. -/
theorem xmitDefersWhenBusy : Obligations.XmitDefersWhenBusy := by
  intro s x id b cur busy nonempty fits
  have answer := Session.xmit_busy busy nonempty fits id
  cases room : x.hasRoom with
  | true => exact exec_of_session_next rfl cur (answer.trans (if_pos room))
  | false => exact exec_of_session_refused rfl cur (answer.trans (if_neg (by simp [room])))

/-- Settles O14: the release with the timer and the line state cleared is the statement's record. -/
theorem ackFailAbortsTheTransmission : Obligations.AckFailAbortsTheTransmission := by
  intro s x id e cur busy waiting owner
  exact exec_of_session_next rfl cur (Session.ackFail_owned busy waiting owner e)

/-- Settles O19: the waiter taken out, `transmit` defers or accepts by the flag. -/
theorem retryAcceptsOrDefersAgain : Obligations.RetryAcceptsOrDefersAgain := by
  intro s x id b bs cur mem fits
  have call := Session.retry_due mem rfl
  by_cases busy : x.busy = true
  · rw [if_pos busy]
    exact exec_of_session_next rfl cur (call.trans (Session.transmit_busy _ id b bs fits busy))
  · rw [if_neg busy]
    exact exec_of_session_next rfl cur
      (call.trans (Session.transmit_idle _ id b bs fits (Bool.eq_false_iff.mpr busy)))

/-- Settles O29: LIST has no guard. -/
theorem listAsksTheTransportInAnyState : Obligations.ListAsksTheTransportInAnyState := by
  intro s x id cur
  exact exec_of_session_next (f := fun x => x.list id) rfl cur rfl

/-- Settles O31: the answer and its report are the two entries. -/
theorem topenFailReportsAndRetainsNothing : Obligations.TopenFailReportsAndRetainsNothing := by
  intro s x id ep e cur waiting
  exact exec_of_session_next rfl cur (Session.topenFail_waiting waiting e)

/-- Settles O32: what follows the close picks the branch. -/
theorem tcloseOkCompletesOrOpens : Obligations.TcloseOkCompletesOrOpens := by
  intro s x id cur
  constructor
  · intro waiting
    exact exec_of_session_next rfl cur (Session.tcloseOk_done waiting)
  · intro ep waiting
    exact exec_of_session_next rfl cur (Session.tcloseOk_thenOpen waiting)

/-- Settles O33: a failed close does not look at what was to follow it. -/
theorem tcloseFailKeepsTheConnection : Obligations.TcloseFailKeepsTheConnection := by
  intro s x id next e cur waiting
  exact exec_of_session_next rfl cur (Session.tcloseFail_waiting waiting e)

/-- Settles O34: the guard holds, and the one entry is the completion. -/
theorem warmdoneCompletesTheOpen : Obligations.WarmdoneCompletesTheOpen := by
  intro s x id cur warming ended
  exact exec_of_session_next rfl cur (Session.warmdone_due warming ended)

/-- Settles O35: a pending tag is all that either answer asks for. -/
theorem listAnswersCompleteTheirTag : Obligations.ListAnswersCompleteTheirTag := by
  intro s x id l e cur pending
  exact ⟨exec_of_session_next rfl cur (Session.tlistOk_pending pending l),
    exec_of_session_next rfl cur (Session.tlistFail_pending pending e)⟩

end Sys2Proof.Machine
end

section
/-! The encoder: the map of a Frame by its segments (30_encoding.md R54, 20_memory.md R46), ENCODE inside and outside
the tables' range, and what the tables need for a Frame to be read back (30_encoding.md R70). -/

namespace Sys2Proof.Machine

/-! ## The segments of a Frame -/

section Segments
variable {header house module : Bits} (footer : Bits) (header_length : header.length = 16)
include header_length

theorem assembleFrame_header {i : Nat} (hi : i < 16) :
    (assembleFrame header house module footer)[i]? = header[i]? := by
  simp only [assembleFrame, List.append_assoc]
  exact List.getElem?_append_left (by omega)

variable (house_length : house.length = 5)
include house_length

theorem assembleFrame_house {i : Nat} (hi : i < 5) :
    (assembleFrame header house module footer)[16 + i]? = house[i]? := by
  simp only [assembleFrame, List.append_assoc]
  rw [List.getElem?_append_right (by omega), List.getElem?_append_left (by omega)]
  congr 1; omega

variable (module_length : module.length = 11)
include module_length

theorem assembleFrame_module {i : Nat} (hi : i < 11) :
    (assembleFrame header house module footer)[21 + i]? = module[i]? := by
  have before : (header ++ house).length = 21 := by simp [header_length, house_length]
  rw [assembleFrame, List.append_assoc (header ++ house), List.getElem?_append_right (by omega),
    List.getElem?_append_left (by omega)]
  congr 1; omega

theorem assembleFrame_footer (i : Nat) :
    (assembleFrame header house module footer)[32 + i]? = footer[i]? := by
  have before : (header ++ house ++ module).length = 32 := by simp [header_length, house_length, module_length]
  rw [assembleFrame, List.getElem?_append_right (by omega)]
  congr 1; omega

/-- The off bit of the module segment is frame index 31. -/
theorem assembleFrame_setBit (v : Bool) :
    assembleFrame header house (setBit module Config.offPos v) footer =
      (assembleFrame header house module footer).set 31 v := by
  have before : (header ++ house).length = 21 := by simp [header_length, house_length]
  have place : 31 - (header ++ house).length = Config.offPos := by rw [before]; rfl
  simp only [assembleFrame, setBit]
  rw [List.append_assoc (header ++ house) module, List.set_append_right _ _ (by omega), place,
    List.set_append_left _ _ (by simp [module_length, Config.offPos]), List.append_assoc]

end Segments

/-- Position 10 of a module code: as tabulated for on, 1 for off (40_encoder.md R74). -/
theorem polarity_offPos {code : Bits} (length : code.length = 11) (o : Bool) :
    (polarity code o)[10]? = if o then code[10]? else some true := by
  cases o with
  | true => rfl
  | false => exact List.getElem?_set_self (by rw [length]; decide)

/-- The other positions of a module code do not depend on on or off (40_encoder.md R74). -/
theorem polarity_other (code : Bits) (o : Bool) {i : Nat} (hi : i < 10) : (polarity code o)[i]? = code[i]? := by
  cases o with
  | true => rfl
  | false => exact List.getElem?_set_ne (by simp only [Config.offPos]; omega)

/-! ## ENCODE -/

/-- The Frame of a valid command (40_encoder.md R75). -/
def commandFrame (h m : Fin 16) (o : Bool) : Bits :=
  assembleFrame headerRom (houseRom h) (polarity (moduleRom m) o) footerRom

theorem encodeFrame_eq_commandFrame (h m : Fin 16) (o : Bool) :
    encodeFrame h.val m.val o = .ok (commandFrame h m o) :=
  encodeFrame_valid h m o

theorem commandFrame_length (h m : Fin 16) (o : Bool) : (commandFrame h m o).length = 40 :=
  encodeFrame_length (encodeFrame_eq_commandFrame h m o)

theorem houseCode_valid (h : Fin 16) : houseCode h.val = .ok (houseRom h) := by
  simp [houseCode, validIndex_of_fin]

theorem moduleCode_valid (m : Fin 16) : moduleCode m.val = .ok (moduleRom m) := by
  simp [moduleCode, validIndex_of_fin]

theorem houseCode_invalid {h : Int} (outside : h < 0 ∨ 15 < h) : houseCode h = .error (.invalidHouse h) := by
  simp [houseCode, validIndex_none outside]

theorem moduleCode_invalid {m : Int} (outside : m < 0 ∨ 15 < m) : moduleCode m = .error (.invalidModule m) := by
  simp [moduleCode, validIndex_none outside]

/-- The house is validated first, whatever the module is (40_encoder.md R75). -/
theorem encodeFrame_invalidHouse {h : Int} (outside : h < 0 ∨ 15 < h) (m : Int) (o : Bool) :
    encodeFrame h m o = .error (.invalidHouse h) := by
  simp [encodeFrame, houseCode_invalid outside]

theorem encodeFrame_invalidModule (h : Fin 16) {m : Int} (outside : m < 0 ∨ 15 < m) (o : Bool) :
    encodeFrame h.val m o = .error (.invalidModule m) := by
  simp [encodeFrame, houseCode_valid, modpol, moduleCode_invalid outside]

/-- An index inside the range is that of an entry (30_encoding.md R56, R57). -/
theorem exists_entry_of_index {n : Int} (low : 0 ≤ n) (high : n ≤ 15) : ∃ i : Fin 16, n = (i.val : Int) :=
  ⟨⟨n.toNat, by omega⟩, by simp only; omega⟩

/-! ## The statements -/

/-- Settles O6: each segment reads back from its place, the ROMs being maps over their indices. -/
theorem frameMapIndexByIndex : Obligations.FrameMapIndexByIndex := by
  intro h m o
  have house := houseRom_length h
  have module : (polarity (moduleRom m) o).length = 11 := (polarity_length _ o).trans (moduleRom_length m)
  refine ⟨commandFrame h m o, encodeFrame_eq_commandFrame h m o, commandFrame_length h m o, fun i hi => ?_,
    fun i hi => ?_, fun i hi => ?_, ?_, fun i hi => ?_⟩
  · rw [commandFrame, assembleFrame_header footerRom headerRom_length hi]
    simp [headerRom, Config.headerBits, hi]
  · exact assembleFrame_house footerRom headerRom_length house hi
  · rw [commandFrame, assembleFrame_module footerRom headerRom_length house module (by omega), polarity_other _ _ hi]
  · rw [commandFrame, assembleFrame_module (i := 10) footerRom headerRom_length house module (by omega),
      polarity_offPos (moduleRom_length m)]
  · rw [commandFrame, assembleFrame_footer footerRom headerRom_length house module]
    simp [footerRom, Config.footerBits, hi]

/-- Setting a bit that was 0 back to 0 undoes its setting to 1. -/
theorem setBit_undo {code : Bits} {p : Nat} (zero : code[p]? = some false) :
    setBit (setBit code p true) p false = code := by
  obtain ⟨inside, value⟩ := List.getElem?_eq_some_iff.mp zero
  rw [setBit, setBit, List.set_set, ← value, List.set_getElem_self]

/-- Settles O7: the segments have fixed lengths, so equal Frames have equal segments; position 10 tells on from off,
and what stands at the other positions tells the module. -/
theorem frameReadBackUnderTableConditions : Obligations.FrameReadBackUnderTableConditions := by
  intro header footer house module house_length module_length house_inj module_inj zero h h' m m' o o' same
  have lengths : (polarity (module m) o).length = (polarity (module m') o').length := by
    rw [polarity_length, polarity_length, module_length, module_length]
  obtain ⟨front, segment⟩ := List.append_inj' (List.append_cancel_right same) lengths
  have onOff : o = o' := by
    have place := congrArg (·[10]?) segment
    simp only [polarity_offPos (module_length _), zero] at place
    cases o <;> cases o' <;> simp_all
  subst onOff
  refine ⟨house_inj (List.append_cancel_left front), module_inj ?_, rfl⟩
  cases o with
  | true => exact segment
  | false =>
    calc module m = setBit (polarity (module m) false) Config.offPos false := (setBit_undo (zero m)).symm
      _ = setBit (polarity (module m') false) Config.offPos false := by rw [segment]
      _ = module m' := setBit_undo (zero m')

/-- Settles O3: the four clauses by the range of the index; the two entries the source gives stand in the tables. -/
theorem codeTablesLookUpOrFail : Obligations.CodeTablesLookUpOrFail := by
  intro s
  refine ⟨fun h => ?_, fun h outside => ?_, fun m => ?_, fun m outside => ?_, rfl, houseRom_length, rfl,
    moduleRom_length⟩
  · rw [exec_of_evaluation rfl, deliveredValue, houseCode_valid, Ret.ofEncoder]
  · rw [exec_of_evaluation rfl, deliveredValue, houseCode_invalid outside, Ret.ofEncoder]
  · rw [exec_of_evaluation rfl, deliveredValue, moduleCode_valid, Ret.ofEncoder]
  · rw [exec_of_evaluation rfl, deliveredValue, moduleCode_invalid outside, Ret.ofEncoder]

/-- What ENCODE delivers, by what the encoder gives. -/
theorem exec_encodeCommand (h m : Int) (o : Bool) (s : State) :
    exec (.encodeCommand h m o) s = .next { s with ret := Ret.ofEncoder (encodeFrame h m o) } :=
  exec_of_evaluation rfl

/-- Settles O4: the Frame of a valid command is the four segments, and the house is validated before the module. -/
theorem encodeConcatenatesOrFails : Obligations.EncodeConcatenatesOrFails := by
  intro s o
  refine ⟨fun h m => ?_, fun h m outside => ?_, fun h m outside => ?_⟩
  · rw [exec_encodeCommand, encodeFrame_valid]
    rfl
  · rw [exec_encodeCommand, encodeFrame_invalidHouse outside, Ret.ofEncoder]
  · rw [exec_encodeCommand, encodeFrame_invalidModule h outside, Ret.ofEncoder]

/-- FRAME.ON and FRAME.OFF are ENCODE for on and for off (40_encoder.md R75). -/
theorem exec_frame_shapes (h m : Int) (s : State) :
    exec (.frameOn h m) s = exec (.encodeCommand h m true) s ∧
      exec (.frameOff h m) s = exec (.encodeCommand h m false) s :=
  ⟨rfl, rfl⟩

/-- The off Frame is the on Frame with index 31 set (40_encoder.md R74). -/
theorem commandFrame_off (h m : Fin 16) : commandFrame h m false = (commandFrame h m true).set 31 true :=
  assembleFrame_setBit footerRom headerRom_length (houseRom_length h) (moduleRom_length m) true

/-- Settles O5: the two shapes are ENCODE, and their Frames differ by the setting of index 31. -/
theorem frameShapesDifferAtMostAtIndex31 : Obligations.FrameShapesDifferAtMostAtIndex31 := by
  intro s
  have shape (h m : Int) := exec_frame_shapes h m s
  refine ⟨shape, fun h m => ?_, fun h m outside => ?_, fun h m outside => ?_⟩
  · refine ⟨commandFrame h m true, commandFrame h m false, ?_, ?_, commandFrame_length h m true,
      commandFrame_length h m false, ?_, ?_, fun i other => ?_⟩
    · rw [(shape h m).1, exec_encodeCommand, encodeFrame_eq_commandFrame, Ret.ofEncoder]
    · rw [(shape h m).2, exec_encodeCommand, encodeFrame_eq_commandFrame, Ret.ofEncoder]
    · rw [commandFrame_off, List.getElem?_set_self (by simp [commandFrame_length])]
    · exact assembleFrame_module (i := 10) footerRom headerRom_length (houseRom_length h) (moduleRom_length m)
        (by omega)
    · rw [commandFrame_off, List.getElem?_set_ne other.symm]
  · rw [(shape h m).1, (shape h m).2, exec_encodeCommand, exec_encodeCommand, encodeFrame_invalidHouse outside,
      encodeFrame_invalidHouse outside]
    exact ⟨rfl, rfl⟩
  · rw [(shape h m).1, (shape h m).2, exec_encodeCommand, exec_encodeCommand, encodeFrame_invalidModule h outside,
      encodeFrame_invalidModule h outside]
    exact ⟨rfl, rfl⟩

/-- Settles O8: by the two values of ONE_LINE. -/
theorem lineSymbolsCarryTheirPatterns : Obligations.LineSymbolsCarryTheirPatterns := by
  intro s
  have one : exec .symOne s = .next { s with ret := .symbol (sym true) } := exec_of_evaluation rfl
  have zero : exec .symZero s = .next { s with ret := .symbol (sym false) } := exec_of_evaluation rfl
  have sync : exec .symSync s = .next { s with ret := .symbol syncSymbol } := exec_of_evaluation rfl
  rw [one, zero, sync, sym, sym]
  cases Config.oneLine <;> exact ⟨rfl, rfl, rfl⟩

/-- Settles O40: in two's complement a field is 0 to 15 exactly where its upper four bits are 0. -/
theorem illegalOperandsByTheirNibbles : Obligations.IllegalOperandsByTheirNibbles := by
  intro w o
  have house : w.toNat / 4096 % 16 = 0 ↔ 0 ≤ cmdHouse w ∧ cmdHouse w ≤ 15 := by
    rw [cmdHouse_eq]
    split <;> omega
  have module : w.toNat / 16 % 16 = 0 ↔ 0 ≤ cmdModule w ∧ cmdModule w ≤ 15 := by
    rw [cmdModule_eq]
    split <;> omega
  refine ⟨fun badHouse => ?_, fun goodHouse badModule => ?_, fun goodHouse goodModule => ?_⟩
  · exact encodeFrame_invalidHouse (by omega) _ o
  · obtain ⟨low, high⟩ := house.mp goodHouse
    obtain ⟨h, entry⟩ := exists_entry_of_index low high
    rw [entry]
    exact encodeFrame_invalidModule h (by omega) o
  · obtain ⟨low, high⟩ := house.mp goodHouse
    obtain ⟨h, house_entry⟩ := exists_entry_of_index low high
    obtain ⟨low, high⟩ := module.mp goodModule
    obtain ⟨m, module_entry⟩ := exists_entry_of_index low high
    rw [house_entry, module_entry]
    exact ⟨_, encodeFrame_eq_commandFrame h m o⟩

end Sys2Proof.Machine
end

section
/-! SEND by its command and the engine (42_session.md R107, R108, 60_exceptions.md R124, R125). -/

namespace Sys2Proof.Machine

/-! ## SEND on one session -/

section Send
variable {x : Session} (closed : x.openInProgress = false) (id : Tag)
include closed

/-- An encoder error is reported in the SEND step, whatever the engine does (60_exceptions.md R132 (b)). -/
theorem Session.send_invalid {h m : Int} {o : Bool} {e : EncoderError} (invalid : encodeFrame h m o = .error e) :
    x.send id h m o = .next (x.raise id e.status e.info) := by
  simp [Session.send, closed, invalid]

/-- A valid command on an idle engine is a call of `transmit` with its Frame. -/
theorem Session.send_idle (h m : Fin 16) (o : Bool) (notBusy : x.busy = false) :
    x.send id h.val m.val o = x.transmit id (commandFrame h m o) := by
  simp [Session.send, closed, encodeFrame_eq_commandFrame, notBusy]

/-- A valid command on a busy engine is deferred where there is room. -/
theorem Session.send_busy (h m : Fin 16) (o : Bool) (busy : x.busy = true) :
    x.send id h.val m.val o =
      if x.hasRoom then .next (x.defer id (commandFrame h m o)) else .refused .heldOffAtPort := by
  have fits := commandFrame_length h m o
  obtain ⟨b, bs, frame⟩ := List.exists_cons_of_length_pos (l := commandFrame h m o) (by omega)
  have deferred : x.transmit id (commandFrame h m o) = .next (x.defer id (commandFrame h m o)) := by
    rw [frame] at fits ⊢
    exact Session.transmit_busy x id b bs fits.le busy
  cases room : x.hasRoom <;> simp [Session.send, closed, encodeFrame_eq_commandFrame, busy, room, deferred]

end Send

/-- The Frame of a valid command, written out (30_encoding.md R54, 40_encoder.md R74). -/
theorem commandFrame_eq (h m : Fin 16) (o : Bool) :
    commandFrame h m o =
      headerRom ++ houseRom h ++ (if o then moduleRom m else (moduleRom m).set 10 true) ++ footerRom :=
  rfl

/-- Every Frame begins with HEADER[0] (30_encoding.md R54). -/
theorem commandFrame_eq_cons (h m : Fin 16) (o : Bool) :
    ∃ bs, commandFrame h m o = Config.headerBit 0 :: bs ∧ bs.length = 39 := by
  have length := commandFrame_length h m o
  have first : (commandFrame h m o)[0]? = some (Config.headerBit 0) :=
    assembleFrame_header footerRom headerRom_length (by omega)
  obtain ⟨b, bs, frame⟩ := List.exists_cons_of_length_pos (l := commandFrame h m o) (by omega)
  rw [frame] at length first ⊢
  obtain rfl : b = Config.headerBit 0 := Option.some.inj first
  exact ⟨bs, rfl, by simpa using length⟩

/-- Settles O23: the command is validated before the engine is looked at, its house first. -/
theorem sendReportsAnInvalidIndexAtOnce : Obligations.SendReportsAnInvalidIndexAtOnce := by
  intro s x id h m o cur notOpening
  have closed : x.openInProgress = false := x.openInProgress_false_iff.mpr notOpening
  constructor
  · intro outside
    exact exec_of_session_next rfl cur (Session.send_invalid closed id (encodeFrame_invalidHouse outside m o))
  · intro low high outside
    obtain ⟨i, rfl⟩ := exists_entry_of_index low high
    exact exec_of_session_next rfl cur (Session.send_invalid closed id (encodeFrame_invalidModule i outside o))

/-- Settles O22: the waiter holds the Frame. -/
theorem sendDefersTheEncodedFrame : Obligations.SendDefersTheEncodedFrame := by
  intro s x id h m o cur notOpening busy
  have closed : x.openInProgress = false := x.openInProgress_false_iff.mpr notOpening
  have answer := Session.send_busy closed id h m o busy
  cases room : x.hasRoom with
  | true => exact exec_of_session_next rfl cur (answer.trans (if_pos room))
  | false => exact exec_of_session_refused rfl cur (answer.trans (if_neg (by simp [room])))

/-- A Frame accepted is a sequence that begins with HEADER[0] (41_engine.md R83). -/
theorem Session.transmit_frame {x : Session} (notBusy : x.busy = false) (id : Tag) (h m : Fin 16) (o : Bool) :
    ∃ bs, commandFrame h m o = Config.headerBit 0 :: bs ∧ bs.length = 39 ∧
      x.transmit id (commandFrame h m o) = .next (x.accept id (Config.headerBit 0) bs) := by
  obtain ⟨bs, frame, length⟩ := commandFrame_eq_cons h m o
  have fits : (Config.headerBit 0 :: bs).length ≤ Config.fifoDepth := by rw [List.length_cons, length]; exact le_rfl
  exact ⟨bs, frame, length, frame ▸ Session.transmit_idle x id _ bs fits notBusy⟩

/-- Settles O21: the call of `transmit` with the Frame accepts. -/
theorem sendLoadsTheFrameOfTheCommand : Obligations.SendLoadsTheFrameOfTheCommand := by
  intro s x id h m o cur notOpening notBusy
  have closed : x.openInProgress = false := x.openInProgress_false_iff.mpr notOpening
  obtain ⟨bs, frame, length, accepts⟩ := Session.transmit_frame notBusy id h m o
  have forty : 40 = (Config.headerBit 0 :: bs).length := by rw [List.length_cons, length]
  rw [← commandFrame_eq, frame, forty]
  exact exec_of_session_next rfl cur ((Session.send_idle closed id h m o notBusy).trans accepts)

/-- After a Frame was accepted on a closed session, success cannot be answered and failure ends the transmission
(42_session.md R108). -/
theorem frame_without_connection {s : State} {x : Session} {id : Tag} {h m : Fin 16} {o : Bool} {ws : List Waiter}
    (cur : s.cur = some x) (closed : x.conn = .closed) (notBusy : x.busy = false) {i : Instr}
    {f : Session → Host.Outcome Session Fault Refusal} (meaning : sessionMeaning s.undefinedCells i = some f)
    (call : f x = Session.transmit { x with waiters := ws } id (commandFrame h m o)) (e : TransportError) :
    ∃ t u y, exec i s = .next t ∧ exec .ackOk t = .refused .noConnectionForSuccess ∧
      exec (.ackFail e) t = .next u ∧ u.cur = some y ∧ y.busy = false ∧ y.phase = .failed ∧ y.lineQ = none ∧
      lineSets y.hist = lineSets x.hist ++ [sym (Config.headerBit 0)] ∧
      y.hist.getLast? = some ⟨x.ticks, .complete id .transportSetLinesFailure (.error e)⟩ := by
  obtain ⟨bs, -, -, accepts⟩ := Session.transmit_frame (x := { x with waiters := ws }) notBusy id h m o
  have accepted := exec_of_session_next meaning cur (call.trans accepts)
  have cur' := State.cur_setCur s (Session.accept { x with waiters := ws } id (Config.headerBit 0) bs) x cur
  have failed := Session.ackFail_owned (x := Session.accept { x with waiters := ws } id (Config.headerBit 0) bs)
    rfl rfl rfl e
  refine ⟨_, _, _, accepted, exec_of_session_refused rfl cur' (Session.ackOk_closed rfl rfl closed),
    exec_of_session_next rfl cur' failed, State.cur_setCur _ _ _ cur', rfl, rfl, rfl, ?_, ?_⟩
  · simp [Event.lineSymbol]
  · simp

/-- Settles O25: by its own step or by its RETRY, the SEND calls `transmit` with its Frame on an idle engine. -/
theorem sendWithoutAConnectionFailsAfterOneLineSet : Obligations.SendWithoutAConnectionFailsAfterOneLineSet := by
  intro s x id h m o e i cur closed notBusy route
  obtain ⟨rfl, free⟩ | ⟨w, mem, rfl, rfl, due, bits⟩ := route
  · have notOpening : x.openInProgress = false := x.openInProgress_false_iff.mpr (.inl free)
    exact frame_without_connection (ws := x.waiters) cur closed notBusy rfl
      (Session.send_idle notOpening id h m o notBusy) e
  · have frame : w.bits = commandFrame h m o := bits.trans (commandFrame_eq h m o).symm
    exact frame_without_connection (ws := x.waiters.erase w) cur closed notBusy rfl
      ((Session.retry_due mem due).trans (by rw [frame])) e

end Sys2Proof.Machine
end

section
/-! The FIFO as the store of a sequence (20_memory.md R43) and as the abstract queue (R36). -/

namespace Sys2Proof.Machine

/-- The selected session after a step is its answer. -/
theorem session_of_exec {i : Instr} {s t : State} {x y : Session}
    {f : Session → Host.Outcome Session Fault Refusal} (meaning : sessionMeaning s.undefinedCells i = some f)
    (cur : s.cur = some x) (answer : exec i s = .next t) (cur' : t.cur = some y) : f x = .next y := by
  obtain ⟨z, hz, rfl⟩ := exec_next_of_session meaning cur answer
  obtain rfl : z = y := Option.some.inj ((State.cur_setCur s z x cur).symm.trans cur')
  exact hz

/-- XMIT on an engine that is not busy accepts or is refused (41_engine.md R82). -/
theorem Session.xmit_accepts {x y : Session} {id : Tag} {s : Bits} (notBusy : x.busy = false)
    (answer : x.xmit id s = .next y) : ∃ b bs, s = b :: bs ∧ y = x.accept id b bs := by
  obtain ⟨transmits, -⟩ := Session.xmit_next answer
  obtain ⟨-, -, ⟨busy, -⟩ | ⟨-, accepted⟩⟩ := Session.transmit_next transmits
  · simp [notBusy] at busy
  · exact accepted

/-- Settles O10: the accept is one MemWrite from cell 0. -/
theorem acceptStoresTheSequenceAndNothingElse : Obligations.AcceptStoresTheSequenceAndNothingElse := by
  intro s t x y id b cur notBusy answer cur'
  obtain ⟨c, cs, rfl, rfl⟩ := Session.xmit_accepts notBusy (session_of_exec rfl cur answer cur')
  constructor
  · exact fun a inside => Session.read_accept x id inside
  · intro a outside
    rw [Session.accept_fmem, Memory.read_writeFrom, if_neg (by omega)]

/-! ## The abstract queue -/

/-- An engine with no bit left has the empty queue. -/
theorem Session.queue_eq_nil {x : Session} (empty : x.wp ≤ x.rp) : x.queue = [] := by
  rw [Session.queue, Nat.sub_eq_zero_of_le empty]
  rfl

/-- The queue begins with the bit at `rp`. -/
theorem Session.queue_eq_cons {x : Session} {b : Bool} (left : x.rp < x.wp)
    (value : Memory.read x.fmem x.rp = some b) : x.queue = b :: Session.queue { x with rp := x.rp + 1 } := by
  have count : x.wp - x.rp = (x.wp - (x.rp + 1)) + 1 := by omega
  rw [Session.queue, count, List.range'_succ, List.filterMap_cons_some value]
  rfl

/-- A loaded sequence is the queue (20_memory.md R43). -/
theorem Session.queue_accept (x : Session) (id : Tag) (b : Bool) (bs : Bits) :
    (x.accept id b bs).queue = b :: bs := by
  rw [← Session.loaded_accept x id b bs, Session.queue, Session.loaded, List.range_eq_range']
  rfl

/-- EXPIRE.SYNC removes the first element, and sends the symbol of the next one (20_memory.md R36). -/
theorem Session.Inv.expireSync_queue {x y : Session} (inv : x.Inv) {u : Nat → Bool}
    (answer : x.expireSync u = .next y) :
    y.queue = x.queue.tail ∧ ∀ b rest, y.queue = b :: rest → lineSets y.hist = lineSets x.hist ++ [sym b] := by
  obtain ⟨-, holding, -, ⟨left, -, rfl⟩ | ⟨exhausted, rfl⟩⟩ := Session.expireSync_next answer
  · have here := Session.queue_eq_cons (by omega) (inv.cellValue_eq u (k := x.rp) (by omega))
    have next : Session.queue { x with rp := x.rp + 1 } = _ :=
      Session.queue_eq_cons left (inv.cellValue_eq u left)
    have same : Session.queue (Session.record { x with rp := x.rp + 1, phase := .sendingBit, sub := .waitAck }
        (.lineSet (sym (x.cellValue u (x.rp + 1))))) = Session.queue { x with rp := x.rp + 1 } := rfl
    refine ⟨by rw [same, here, List.tail_cons], fun b rest first => ?_⟩
    rw [same, next] at first
    obtain rfl : x.cellValue u (x.rp + 1) = b := (List.cons.inj first).1
    exact lineSets_append_lineSet _ _ _
  · obtain ⟨busy, -⟩ := inv.holding holding
    obtain ⟨left, -⟩ := inv.inFlight busy
    have here := Session.queue_eq_cons left (inv.cellValue_eq u left)
    have none_left : Session.queue { x with rp := x.rp + 1 } = [] := Session.queue_eq_nil (by dsimp only; omega)
    have empty : (Session.reportOwner (x.release .idle) x.owner .ok .nothing).queue = [] :=
      Session.queue_eq_nil (by simp)
    refine ⟨by rw [empty, here, none_left, List.tail_cons], fun b rest first => ?_⟩
    simp [empty] at first

/-- Settles O51: the accept loads the queue, EXPIRE.SYNC drops its first element, ACK.FAIL empties it. -/
theorem engineStepsAreQueueSteps : Obligations.EngineStepsAreQueueSteps := by
  intro s t x y cur cur' inv
  refine ⟨fun id b notBusy answer => ?_, fun answer => ?_, fun e answer => ?_⟩
  · obtain ⟨c, cs, rfl, rfl⟩ := Session.xmit_accepts notBusy (session_of_exec rfl cur answer cur')
    exact Session.queue_accept x id c cs
  · exact inv.expireSync_queue (session_of_exec rfl cur answer cur')
  · have failed : x.ackFail e = .next y := session_of_exec rfl cur answer cur'
    obtain ⟨-, -, rfl⟩ := Session.ackFail_next failed
    exact Session.queue_eq_nil (by simp)

end Sys2Proof.Machine
end

section
/-! Reset (10_state.md R33) and the step around `exec` (20_memory.md R47). -/

namespace Sys2Proof.Machine

/-- Settles O1: CREATE has no guard. -/
theorem createSetsEveryElementToReset : Obligations.CreateSetsEveryElementToReset := by
  intro s x cur
  exact exec_of_session_next (f := fun _ => .next Session.reset) rfl cur rfl

/-- Every session after reset is at its reset values. -/
theorem mem_reset_sessions {x : Session} (mem : x ∈ State.reset.sessions) : x = Session.reset :=
  List.eq_of_mem_replicate mem

/-- Settles O2: the sessions after reset are copies of the reset session. -/
theorem resetHoldsEveryInstanceAtItsResetValues : Obligations.ResetHoldsEveryInstanceAtItsResetValues := by
  refine ⟨List.length_replicate, Nat.succ_le_succ (Nat.zero_le _), fun x mem => ?_⟩
  obtain rfl := mem_reset_sessions mem
  exact ⟨rfl, rfl, rfl, fun _ => rfl, rfl, rfl, rfl, rfl, rfl, rfl, rfl, rfl, rfl, rfl, rfl⟩

/-- Settles O43: an idle session with an empty history meets every clause. -/
theorem invariantsHoldAtReset : Obligations.InvariantsHoldAtReset := by
  constructor
  · intro x mem
    obtain rfl := mem_reset_sessions mem
    exact Session.inv_reset
  · intro x mem
    obtain rfl := mem_reset_sessions mem
    exact .of_not_busy rfl

/-- Settles O37: by what the schedule holds and what its first entry decodes to. -/
theorem stepRunsTheDecodedOperation : Obligations.StepRunsTheDecodedOperation := by
  refine ⟨fun s e rest sched => ⟨fun i decoded => ?_, fun r rejected => ?_⟩, fun s sched => ?_⟩
  · simp only [step, sched, decoded, State.begin]
  · simp only [step, sched, rejected]
  · simp only [step, sched]

/-- Settles O41: eight words of the spec, read through the table's width. -/
theorem listedCommandWordsDecode : Obligations.ListedCommandWordsDecode := by
  unfold Obligations.ListedCommandWordsDecode
  decide

end Sys2Proof.Machine
end

section
/-! Runs of chosen steps of one session (10_state.md R30), and what k ticks do (41_engine.md R86, 60_exceptions.md
R138). -/

namespace Sys2Proof.Machine

/-! ## Runs of one session -/

/-- The operations `l`, run on a machine whose selected session is `x`, all answer, and turn that session to `y`. -/
def Session.Runs (l : List Instr) (x y : Session) : Prop :=
  ∀ s : State, s.cur = some x → runInstrs l s = .next (s.setCur y)

/-- Operations that all answer are followed by the rest. -/
theorem runInstrs_append {l k : List Instr} {s t : State} (first : runInstrs l s = .next t) :
    runInstrs (l ++ k) s = runInstrs k t := by
  induction l generalizing s with
  | nil =>
    obtain rfl : s = t := by simpa [runInstrs] using first
    rfl
  | cons i l ih =>
    simp only [List.cons_append, runInstrs] at first ⊢
    cases answer : exec i s with
    | next u => exact ih (by simpa [answer] using first)
    | fault r => simp [answer] at first
    | refused r => simp [answer] at first

theorem Session.Runs.trans {l k : List Instr} {x y z : Session} (first : Session.Runs l x y)
    (second : Session.Runs k y z) : Session.Runs (l ++ k) x z := by
  intro s cur
  rw [runInstrs_append (first s cur), second _ (State.cur_setCur s y x cur), State.setCur_setCur]

theorem Session.Runs.nil (x : Session) : Session.Runs [] x x := by
  intro s cur
  obtain ⟨inside, value⟩ := List.getElem?_eq_some_iff.mp cur
  rw [runInstrs, State.setCur, ← value, List.set_getElem_self]

/-- One operation, whose answer the free values do not change. -/
theorem Session.Runs.one (i : Instr) {x y : Session} {f : (Nat → Bool) → Session → Host.Outcome Session Fault Refusal}
    (meaning : ∀ u, sessionMeaning u i = some (f u)) (answer : ∀ u, f u x = .next y) : Session.Runs [i] x y := by
  intro s cur
  simp only [runInstrs, exec_of_session_next (meaning _) cur (answer _)]

/-! ## Ticks -/

/-- The session `k` ticks later, nothing urgent coming in between. -/
def Session.ticked (x : Session) (k : Nat) : Session :=
  { x with
    tmr := if x.sub = .hold then x.tmr - k else x.tmr
    waiters := x.waiters.map fun w => ⟨w.id, w.bits, w.bko - k⟩
    wtmr := if x.warming then x.wtmr - k else x.wtmr
    ticks := x.ticks + k }

theorem Session.ticked_zero (x : Session) : x.ticked 0 = x := by
  simp [Session.ticked]

/-- One tick more, where every running counter is above 0. -/
theorem Session.tick_ticked {x : Session} {k : Nat} (hold : x.sub = .hold → k < x.tmr)
    (backoff : ∀ w ∈ x.waiters, k < w.bko) (warmup : x.warming = true → k < x.wtmr) :
    (x.ticked k).tick = .next (x.ticked (k + 1)) := by
  have quiet : (x.ticked k).urgent = false := by
    refine Session.urgent_eq_false (fun holding => ?_) (fun w mem => ?_) (fun id warming => ?_)
    · have running := hold holding
      have holding : x.sub = .hold := holding
      simp only [Session.ticked, if_pos holding]
      omega
    · obtain ⟨v, old, rfl⟩ := List.mem_map.mp mem
      exact Nat.sub_pos_of_lt (backoff v old)
    · have warming : x.warming = true := x.warming_iff.mpr ⟨id, warming⟩
      have running := warmup warming
      simp only [Session.ticked, if_pos warming]
      omega
  have same_warming : (x.ticked k).warming = x.warming := rfl
  rw [Session.tick_of_not_urgent quiet, same_warming]
  by_cases holding : x.sub = .hold <;> by_cases warming : x.warming = true <;>
    simp [Session.ticked, holding, warming, Nat.sub_sub, Nat.add_assoc]

/-- `k` ticks, where every running counter has at least `k` left (60_exceptions.md R138). -/
theorem Session.runs_ticks {x : Session} {k : Nat} (hold : x.sub = .hold → k ≤ x.tmr)
    (backoff : ∀ w ∈ x.waiters, k ≤ w.bko) (warmup : x.warming = true → k ≤ x.wtmr) :
    Session.Runs (List.replicate k .tick) x (x.ticked k) := by
  induction k with
  | zero => rw [Session.ticked_zero]; exact .nil x
  | succ k ih =>
    rw [List.replicate_succ']
    refine (ih (fun h => Nat.le_of_succ_le (hold h)) (fun w mem => Nat.le_of_succ_le (backoff w mem))
      fun h => Nat.le_of_succ_le (warmup h)).trans ?_
    exact .one .tick (fun _ => rfl) fun _ => Session.tick_ticked hold backoff warmup

/-- Settles O49: the session `k` ticks later is the statement's record. -/
theorem ticksCountEveryCounterDown : Obligations.TicksCountEveryCounterDown := by
  intro k s x cur hold backoff warmup
  exact Session.runs_ticks hold backoff warmup s cur

/-! ## The warm-up -/

/-- Open success and then `k` ticks of the warm-up, on a session without a hold and without waiters
(42_session.md R114). -/
theorem Session.runs_warmup {x : Session} {id : Tag} {ep : Endpoint} (opening : x.sop = .openWait id ep)
    (waiting : x.sub = .waitAck) (noWaiters : x.waiters = []) {k : Nat} (within : k ≤ Config.warmupTicks) :
    Session.Runs (.topenOk :: List.replicate k .tick) x
      { x with
        conn := .openAt ep, sop := .warmup id, wtmr := Config.warmupTicks - k
        hist := x.hist ++ [⟨x.ticks, .topenOk⟩], ticks := x.ticks + k } := by
  have opened : Session.Runs [.topenOk] x
      (Session.record { x with conn := .openAt ep, sop := .warmup id, wtmr := Config.warmupTicks } .topenOk) :=
    .one .topenOk (fun _ => rfl) fun _ => Session.topenOk_waiting opening
  have ticks := Session.runs_ticks (k := k)
    (x := Session.record { x with conn := .openAt ep, sop := .warmup id, wtmr := Config.warmupTicks } .topenOk)
    (by simp [waiting]) (by simp [noWaiters]) (fun _ => within)
  have run := opened.trans ticks
  simpa [Session.ticked, Session.record, Session.warming, waiting, noWaiters] using run

/-- Settles O50: the counter that open success sets is 0 after WARMUP_TICKS ticks and not before. -/
theorem warmupTakesExactlyItsTicks : Obligations.WarmupTakesExactlyItsTicks := by
  intro s x id ep cur opening waiting noWaiters
  constructor
  · have warmed := Session.runs_warmup opening waiting noWaiters le_rfl
    have done := warmed.trans (.one .warmdone (fun _ => rfl) fun _ =>
      Session.warmdone_due (id := id) rfl (Nat.sub_self _))
    exact ⟨_, done s cur, rfl, rfl, rfl, rfl⟩
  · intro k early
    have warming := Session.runs_warmup opening waiting noWaiters early.le
    have refused := Session.warmdone_not_due (x := { x with
        conn := .openAt ep, sop := .warmup id, wtmr := Config.warmupTicks - k
        hist := x.hist ++ [⟨x.ticks, .topenOk⟩], ticks := x.ticks + k })
      fun ⟨_, _, ended⟩ => (Nat.sub_pos_of_lt early).ne' ended
    exact ⟨_, warming s cur, exec_of_session_refused rfl (State.cur_setCur s _ x cur) refused⟩

end Sys2Proof.Machine
end

section
/-! A whole transmission (41_engine.md R92 to R94): after each successful line-set the next one of the wire sequence is
outstanding, up to the completion or to a failure answer. -/

namespace Sys2Proof.Machine

/-- The transmission of `b` for `id`, started on the session `x` with nothing else running, has had `n` successful
line-sets, and the next one is outstanding on the session `y`. -/
structure Session.Sending (x : Session) (id : Tag) (b : Bits) (n : Nat) (y : Session) : Prop where
  busy : y.busy = true
  waiting : y.sub = .waitAck
  phase : y.phase = if n % 2 = 0 then .sendingBit else .synchronizing
  rp : y.rp = n / 2
  wp : y.wp = b.length
  cells : ∀ a, a < b.length → Memory.read y.fmem a = b[a]?
  owner : y.owner = some id
  conn : y.conn = x.conn
  sop : y.sop = .idle
  waiters : y.waiters = []
  sent : lineSets y.hist = lineSets x.hist ++ (wire b).take (n + 1)
  ticks : y.ticks = x.ticks + n * Config.bitTicks

/-- The session at the end of the hold that follows a successful line-set of the symbol `l`. -/
def Session.held (y : Session) (l : LineState) : Session :=
  { y with
    lineQ := some l
    sub := .hold
    tmr := 0
    hist := y.hist ++ [⟨y.ticks, .ackOk⟩]
    ticks := y.ticks + Config.bitTicks }

theorem Session.sending_accept {x : Session} (id : Tag) (c : Bool) (cs : Bits) (noWaiters : x.waiters = [])
    (free : x.sop = .idle) : x.Sending id (c :: cs) 0 (x.accept id c cs) where
  busy := rfl
  waiting := rfl
  phase := rfl
  rp := rfl
  wp := rfl
  cells a inside := Session.read_accept x id inside
  owner := rfl
  conn := rfl
  sop := free
  waiters := noWaiters
  sent := lineSets_append_lineSet _ _ _
  ticks := by simp

section
variable {x y : Session} {id : Tag} {b : Bits} {ep : Endpoint} (conn : x.conn = .openAt ep) (fits : b.length ≤ 40)
include conn fits

/-- The success answer and the BIT_TICKS ticks of the hold (41_engine.md R85, R86). -/
theorem Session.Sending.runs_hold {n : Nat} (sending : x.Sending id b n y) (inside : n < 2 * b.length) :
    ∃ l, (n % 2 = 1 → l = syncSymbol) ∧
      Session.Runs (.ackOk :: List.replicate Config.bitTicks .tick) y (y.held l) := by
  have outstanding : y.lineSetOutstanding = true := y.lineSetOutstanding_iff.mpr ⟨sending.busy, sending.waiting⟩
  have connected : y.connected = true := y.connected_iff.mpr ⟨ep, sending.conn.trans conn⟩
  have answered : ∃ l, (n % 2 = 1 → l = syncSymbol) ∧ ∀ u, y.ackOk u =
      .next (Session.record { y with lineQ := some l, tmr := Config.bitTicks, sub := .hold } .ackOk) := by
    have phase := sending.phase
    by_cases even : n % 2 = 0
    · have here : y.rp < b.length := by rw [sending.rp]; omega
      have value : Memory.read y.fmem y.rp = some b[y.rp] :=
        (sending.cells _ here).trans (List.getElem?_eq_getElem here)
      rw [if_pos even] at phase
      exact ⟨_, by omega, fun u => Session.ackOk_bit outstanding connected phase (sending.wp ▸ here)
        (here.trans_le fits) value⟩
    · rw [if_neg even] at phase
      exact ⟨_, fun _ => rfl, fun u => Session.ackOk_sync outstanding connected (by simp [phase])⟩
  obtain ⟨l, symbol, answer⟩ := answered
  have acked : Session.Runs [.ackOk] y _ := .one .ackOk (fun _ => rfl) answer
  have ticks := Session.runs_ticks (k := Config.bitTicks)
    (x := Session.record { y with lineQ := some l, tmr := Config.bitTicks, sub := .hold } .ackOk)
    (fun _ => le_rfl) (by simp [sending.waiters]) (by simp [Session.warming, sending.sop])
  refine ⟨l, symbol, ?_⟩
  have run := acked.trans ticks
  simpa [Session.ticked, Session.held, Session.record, Session.warming, sending.waiters, sending.sop] using run

/-- After a bit's line-set its SYNC is outstanding (41_engine.md R87). -/
theorem Session.Sending.runs_bit {k : Nat} (sending : x.Sending id b (2 * k) y) (inside : k < b.length) :
    ∃ z, Session.Runs (lineSetSteps (2 * k)) y z ∧ x.Sending id b (2 * k + 1) z := by
  obtain ⟨l, -, hold⟩ := sending.runs_hold conn fits (by omega)
  have phase := sending.phase
  rw [if_pos (by omega)] at phase
  have expires := Session.expireBit_due (x := y.held l) ((Session.bitExpiryDue_iff _).mpr ⟨phase, rfl, rfl⟩)
  refine ⟨Session.record { y.held l with phase := .synchronizing, sub := .waitAck } (.lineSet syncSymbol), ?_, ?_⟩
  · rw [lineSetSteps, if_pos (by omega)]
    exact hold.trans (.one .expireBit (fun _ => rfl) fun _ => expires)
  · have bit : b[k]? = some b[k] := List.getElem?_eq_getElem inside
    exact {
      sending with
      waiting := rfl
      phase := by rw [if_neg (by omega)]; rfl
      rp := sending.rp.trans (by omega)
      sent := by
        rw [take_wire_sync bit, ← List.append_assoc, ← sending.sent]
        simp [Session.held, Event.lineSymbol]
      ticks := by
        have before := sending.ticks
        simp only [Session.record_ticks, Session.held, before]
        ring }

/-- After a SYNC that is not the last the next bit's line-set is outstanding (41_engine.md R88). -/
theorem Session.Sending.runs_sync {k : Nat} (sending : x.Sending id b (2 * k + 1) y) (inside : k + 1 < b.length) :
    ∃ z, Session.Runs (lineSetSteps (2 * k + 1)) y z ∧ x.Sending id b (2 * (k + 1)) z := by
  obtain ⟨l, -, hold⟩ := sending.runs_hold conn fits (by omega)
  have phase := sending.phase
  rw [if_neg (by omega)] at phase
  have rp : y.rp = k := sending.rp.trans (by omega)
  have bit : b[k + 1]? = some b[k + 1] := List.getElem?_eq_getElem inside
  have expires (u) := Session.expireSync_advance (u := u) (x := y.held l) (b := b[k + 1])
      ((Session.syncExpiryDue_iff _).mpr ⟨phase, rfl, rfl⟩)
      (by simp only [Session.held, rp, sending.wp]; exact inside)
      (by simp only [Session.held, rp]; exact inside.trans_le fits)
      (by simp only [Session.held, rp]; exact (sending.cells _ inside).trans bit)
  refine ⟨Session.record { y.held l with rp := y.rp + 1, phase := .sendingBit, sub := .waitAck }
    (.lineSet (sym b[k + 1])), ?_, ?_⟩
  · rw [lineSetSteps, if_neg (by omega)]
    exact hold.trans (.one .expireSync (fun _ => rfl) expires)
  · exact {
      sending with
      waiting := rfl
      phase := by rw [if_pos (by omega)]; rfl
      rp := by simp only [Session.record_rp, Session.held, rp]; omega
      sent := by
        rw [take_wire_bit bit, ← List.append_assoc, Nat.mul_succ, ← sending.sent]
        simp [Session.held, Event.lineSymbol]
      ticks := by
        have before := sending.ticks
        simp only [Session.record_ticks, Session.held, before]
        ring }

/-- After the last SYNC the transmission completes (41_engine.md R88, R94). -/
theorem Session.Sending.runs_last {k : Nat} (sending : x.Sending id b (2 * k + 1) y) (last : k + 1 = b.length) :
    Session.Runs (lineSetSteps (2 * k + 1)) y
      (((y.held syncSymbol).release .idle).record (.complete id .ok .nothing)) := by
  obtain ⟨l, symbol, hold⟩ := sending.runs_hold conn fits (by omega)
  obtain rfl := symbol (by omega)
  have phase := sending.phase
  rw [if_neg (by omega)] at phase
  have rp : y.rp = k := sending.rp.trans (by omega)
  have expires (u) := Session.expireSync_complete (u := u) (x := y.held syncSymbol)
      ((Session.syncExpiryDue_iff _).mpr ⟨phase, rfl, rfl⟩)
      (by simp only [Session.held, rp, sending.wp]; omega) sending.owner
  rw [lineSetSteps, if_neg (by omega)]
  exact hold.trans (.one .expireSync (fun _ => rfl) expires)

/-- From the call on, any number of successful line-sets short of the whole. -/
theorem Session.runs_transmission (notBusy : x.busy = false) (noWaiters : x.waiters = []) (free : x.sop = .idle)
    (nonempty : 1 ≤ b.length) {n : Nat} (inside : n < 2 * b.length) :
    ∃ y, Session.Runs (.xmit id b :: transmissionSteps n) x y ∧ x.Sending id b n y := by
  induction n with
  | zero =>
    obtain ⟨c, cs, rfl⟩ := List.exists_cons_of_length_pos nonempty
    exact ⟨_, .one (.xmit id (c :: cs)) (fun _ => rfl) fun _ => Session.xmit_idle id notBusy fits,
      Session.sending_accept id c cs noWaiters free⟩
  | succ n ih =>
    obtain ⟨y, run, sending⟩ := ih (by omega)
    obtain ⟨k, rfl | rfl⟩ := Nat.even_or_odd' n
    · obtain ⟨z, more, sending'⟩ := sending.runs_bit conn fits (by omega)
      exact ⟨z, run.trans more, sending'⟩
    · obtain ⟨z, more, sending'⟩ := sending.runs_sync conn fits (by omega)
      exact ⟨z, run.trans more, sending'⟩

end

/-- Settles O47: all line-sets but the last leave the next one outstanding, and the last completes. -/
theorem wholeTransmissionIsItsWireSequence : Obligations.WholeTransmissionIsItsWireSequence := by
  intro s x id b ep cur notBusy conn noWaiters free nonempty fits
  obtain ⟨k, last⟩ : ∃ k, k + 1 = b.length := ⟨b.length - 1, by omega⟩
  have steps : transmissionSteps (2 * b.length) = transmissionSteps (2 * k + 1) ++ lineSetSteps (2 * k + 1) := by
    rw [← last]; rfl
  obtain ⟨y, run, sending⟩ := Session.runs_transmission (id := id) conn fits notBusy noWaiters free nonempty
    (n := 2 * k + 1) (by omega)
  have whole := run.trans (sending.runs_last conn fits last)
  have all : (wire b).take (2 * k + 1 + 1) = wire b := List.take_of_length_le (by rw [wire_length]; omega)
  have sent := sending.sent
  rw [all] at sent
  refine ⟨((y.held syncSymbol).release .idle).record (.complete id .ok .nothing), ?_, ?_, wire_length b, ?_, ?_,
    rfl, rfl, rfl, sending.conn, sending.waiters⟩
  · rw [steps]; exact whole s cur
  · simpa [Session.held, Event.lineSymbol] using sent
  · have before := sending.ticks
    simp only [Session.record_ticks, Session.release_ticks, Session.held, before, ← last]
    ring
  · simp

/-- Settles O48: after `k - 1` successful line-sets the `k`-th is outstanding, and its failure releases the engine. -/
theorem failureAtLineSetKLeavesKLineSets : Obligations.FailureAtLineSetKLeavesKLineSets := by
  intro s x id b ep k e cur notBusy conn noWaiters free nonempty fits first last
  obtain ⟨y, run, sending⟩ := Session.runs_transmission (id := id) conn fits notBusy noWaiters free nonempty
    (n := k - 1) (by omega)
  have failed := run.trans (.one (.ackFail e) (fun _ => rfl) fun _ =>
    Session.ackFail_owned sending.busy sending.waiting sending.owner e)
  have sent := sending.sent
  rw [Nat.sub_add_cancel first] at sent
  refine ⟨_, failed s cur, ?_, ?_, ?_, rfl, rfl, rfl, rfl⟩
  · simpa [Event.lineSymbol] using sent
  · rw [List.length_take, wire_length, Nat.min_eq_left last]
  · simp

end Sys2Proof.Machine
end
